-- ==== Sys2Proof/Word.lean ====
section
/-! DEFINITION. The bit-vector types of the CPU16B: what the spec treats as bits, each at its fixed width
(00_scope.md R6 to R8, 10_state.md R20). Nothing else stands here. -/

namespace Sys2Proof

/-- A 16-bit quantity: an instruction word, a general register, a memory word or a port value (R7). -/
abbrev Word := BitVec 16

/-- One of the two halves in which the model stores a memory word; no address of the machine names one (R50, R54). -/
abbrev Byte := BitVec 8

/-- A general register's number, the A field (bits 3:0) or the B field (bits 7:4) of an instruction (R22). -/
abbrev Reg := BitVec 4

/-- A program address, the width of the program counter and of a return-stack entry (R23, R29). -/
abbrev ProgAddr := BitVec 14

/-- An I/O port's number, 0 to 127 (R35). -/
abbrev Port := BitVec 7

/-- The register the assembler calls SP: general register 0, an ordinary register (R21, R294). -/
abbrev sp : Reg := 0

end Sys2Proof
end

