-- ==== Sys2Proof/Syntax.lean ====
section
/-! DEFINITION. The instructions of the CPU16B: one constructor for each of the 113 rows of spec/opcode_table.json.
The first 67 are the machine instructions (30_encoding.md R79, R80); the other 46 are the rows the table marks
`alias_of`, other names for words of a machine instruction (47_stack_and_pseudo.md R290 to R292, R299). The decoder
answers machine instructions only: a word does not tell an alias from the instruction it stands for (R290). -/

namespace Sys2Proof

/-- R100. The eight conditions of JMP, RET and LOOP, in the order of their codes 000 to 111. -/
inductive Cond where
  | always | never | v | nv | z | nz | c | nc
  deriving DecidableEq, Repr

/-- Why a word is no instruction; the decoder rejects it by one of these names. The hardware has no trap and the
spec gives such a word no effect (R81, R82). -/
inductive DecodeError where
  /-- R81: an unused encoding. -/
  | unusedEncoding
  /-- R82: the shown bits are those of RET, LOOP, MARK, STRA or the no-access form, and a blank bit is not zero. -/
  | blankBitsSet
  deriving DecidableEq, Repr

/-- One constructor per row of spec/opcode_table.json. Register operands stand in the assembler's order, register A
(the destination) first (R85). -/
inductive Instr where
  /-- R102. CALL: push the next address, go to `target` (`abs14`). -/
  | call (target : ProgAddr)
  /-- R103. JMP with a condition: go to `pc + 1 + rel` if it holds. -/
  | jmp (cc : Cond) (rel : BitVec 9)
  /-- R105. RET with a condition: pop the return-address stack into `pc` if it holds. -/
  | ret (cc : Cond)
  /-- R106. LOOP with a condition: go to the top of the return-address stack if it holds, else drop it. -/
  | loop (cc : Cond)
  /-- R107. MARK: push the next address. -/
  | mark
  /-- R108. STRA: push register A. -/
  | stra (a : Reg)
  /-- R109. REP: execute the next instruction `count + 2` times (`count8`). -/
  | rep (count : BitVec 8)
  /-- R130. MVI: load a sign-extended byte, or the upper byte of the pair's constant. -/
  | mvi (a : Reg) (imm : BitVec 8)
  /-- R133. OUT: write register A to a port. -/
  | out (a : Reg) (port : Port)
  /-- R134. IN: read a port into register A (`in` is a word of Lean). -/
  | inp (a : Reg) (port : Port)
  /-- R135. WR: store register A at the address in register B. -/
  | wr (a b : Reg)
  /-- R136. RD: load register A from the address in register B. -/
  | rd (a b : Reg)
  /-- R137. XCHG: exchange register A with the word at the address in register B. -/
  | xchg (a b : Reg)
  /-- R138. The memory format with neither access, the word 0xC800. -/
  | noAccess
  /-- R151. ADI: add a sign-extended byte to register A. -/
  | adi (a : Reg) (imm : BitVec 8)
  /-- R154. CPI: compare register A with a sign-extended byte. -/
  | cpi (a : Reg) (imm : BitVec 8)
  /-- R156. CLC: C <- 0. -/
  | clc
  /-- R157. STC: C <- 1. -/
  | stc
  /-- R158. CMP: compare register A with register B. -/
  | cmp (a b : Reg)
  /-- R159. CMPC: compare with the incoming borrow. -/
  | cmpc (a b : Reg)
  /-- R160. MOV: A <- 0 + B, with flags. -/
  | mov (a b : Reg)
  /-- R161. MVN: A <- 0 - B, with flags. -/
  | mvn (a b : Reg)
  /-- R163. ADD: A <- A + B. -/
  | add (a b : Reg)
  /-- R164. SUB: A <- A - B. -/
  | sub (a b : Reg)
  /-- R165. MOVC: A <- 0 + B + C. -/
  | movc (a b : Reg)
  /-- R166. MVNC: A <- 0 - B - borrow. -/
  | mvnc (a b : Reg)
  /-- R168. ADC: A <- A + B + C. -/
  | adc (a b : Reg)
  /-- R169. SBC: A <- A - B - borrow. -/
  | sbc (a b : Reg)
  /-- R170. MOV8: the low byte of A <- the low byte of B. -/
  | mov8 (a b : Reg)
  /-- R171. MVN8: the low byte of A <- minus the low byte of B. -/
  | mvn8 (a b : Reg)
  /-- R173. ADD8: add the low bytes. -/
  | add8 (a b : Reg)
  /-- R174. SUB8: subtract the low bytes. -/
  | sub8 (a b : Reg)
  /-- R175. MOV4: the low nibble of A <- the low nibble of B. -/
  | mov4 (a b : Reg)
  /-- R176. MVN4: the low nibble of A <- minus the low nibble of B. -/
  | mvn4 (a b : Reg)
  /-- R178. ADD4: add the low nibbles. -/
  | add4 (a b : Reg)
  /-- R179. SUB4: subtract the low nibbles. -/
  | sub4 (a b : Reg)
  /-- R191. NOT: A <- the complement of B. -/
  | not (a b : Reg)
  /-- R192. AND: A <- A and B. -/
  | and (a b : Reg)
  /-- R193. OR: A <- A or B. -/
  | or (a b : Reg)
  /-- R194. XOR: A <- A xor B. -/
  | xor (a b : Reg)
  /-- R195. MASK: keep the low `k` bits of A. -/
  | mask (a : Reg) (k : BitVec 4)
  /-- R196. RST: clear bit `k` of A. -/
  | rst (a : Reg) (k : BitVec 4)
  /-- R197. SET: set bit `k` of A. -/
  | setb (a : Reg) (k : BitVec 4)
  /-- R198. INV: complement bit `k` of A. -/
  | inv (a : Reg) (k : BitVec 4)
  /-- R210. BTST: C <- bit `k` of A. -/
  | btst (a : Reg) (k : BitVec 4)
  /-- R212. MLLS: A <- the sign-extended low byte of B. -/
  | mlls (a b : Reg)
  /-- R214. MHLS: A <- the sign-extended high byte of B. -/
  | mhls (a b : Reg)
  /-- R216. INS4: shift A right by 4, insert the low 4 bits of B. -/
  | ins4 (a b : Reg)
  /-- R218. INS8: shift A right by 8, insert the low 8 bits of B. -/
  | ins8 (a b : Reg)
  /-- R220. IN12: shift A right by 12, insert the low 12 bits of B. -/
  | in12 (a b : Reg)
  /-- R222. REV: A <- the bits of B in reverse order. -/
  | rev (a b : Reg)
  /-- R223. SHR: shift A right by one place, with the control code `k` of R211. -/
  | shr (a : Reg) (k : BitVec 4)
  /-- R224. SHL: shift A left by one place, with the control code `k` of R211. -/
  | shl (a : Reg) (k : BitVec 4)
  /-- R251. UMUL: acc <- unsigned product. -/
  | umul (a b : Reg)
  /-- R252. UMLN: acc <- minus the unsigned product. -/
  | umln (a b : Reg)
  /-- R253. UMAC: acc <- acc + unsigned product. -/
  | umac (a b : Reg)
  /-- R254. UMSB: acc <- acc - unsigned product. -/
  | umsb (a b : Reg)
  /-- R255. MUL: acc <- signed product. -/
  | mul (a b : Reg)
  /-- R256. MULN: acc <- minus the signed product. -/
  | muln (a b : Reg)
  /-- R257. MAC: acc <- acc + signed product. -/
  | mac (a b : Reg)
  /-- R258. MSUB: acc <- acc - signed product. -/
  | msub (a b : Reg)
  /-- R259. LPL: A <- the low word of acc. -/
  | lpl (a : Reg)
  /-- R260. LPH: A <- the high word of acc. -/
  | lph (a : Reg)
  /-- R271. IDIV: divide register A by register B. -/
  | idiv (a b : Reg)
  /-- R272. FDIV: continue the division for the fraction. -/
  | fdiv
  /-- R273. LQ: A <- the quotient. -/
  | lq (a : Reg)
  /-- R274. LR: A <- the remainder. -/
  | lr (a : Reg)
  -- The rows marked `alias_of`.
  /-- R103. JMP with condition Always. -/
  | jmpAlways (rel : BitVec 9)
  /-- R111. NOP: JMP with condition Never; `rel` has no effect (R82). -/
  | nop (rel : BitVec 9)
  /-- R103. JMP if V = 1. -/
  | jv (rel : BitVec 9)
  /-- R103. JMP if V = 0. -/
  | jnv (rel : BitVec 9)
  /-- R103. JMP if Z = 1. -/
  | jz (rel : BitVec 9)
  /-- R103. JMP if Z = 0. -/
  | jnz (rel : BitVec 9)
  /-- R103. JMP if C = 1. -/
  | jc (rel : BitVec 9)
  /-- R103. JMP if C = 0. -/
  | jnc (rel : BitVec 9)
  /-- R105. RET with condition Always. -/
  | retAlways
  /-- R105. RET with condition Never. -/
  | retNever
  /-- R105. RET if V = 1. -/
  | rv
  /-- R105. RET if V = 0. -/
  | rnv
  /-- R105. RET if Z = 1. -/
  | rz
  /-- R105. RET if Z = 0. -/
  | rnz
  /-- R105. RET if C = 1. -/
  | rc
  /-- R105. RET if C = 0. -/
  | rnc
  /-- R106. LOOP with condition Always. -/
  | loopAlways
  /-- R106. LOOP with condition Never. -/
  | loopNever
  /-- R106. LOOP if V = 1. -/
  | lv
  /-- R106. LOOP if V = 0. -/
  | lnv
  /-- R106. LOOP if Z = 1. -/
  | lz
  /-- R106. LOOP if Z = 0. -/
  | lnz
  /-- R106. LOOP if C = 1. -/
  | lc
  /-- R106. LOOP if C = 0. -/
  | lnc
  /-- R292. RPT: the matrix's spelling of REP. -/
  | rpt (count : BitVec 8)
  /-- R152. SBI: ADI of `-c`; the assembler takes `c` from -127 to 128. -/
  | sbi (a : Reg) (c : Int)
  /-- R153. INC: ADI of 1. -/
  | inc (a : Reg)
  /-- R153. DEC: ADI of -1. -/
  | dec (a : Reg)
  /-- R155. CPZ: CPI of 0. -/
  | cpz (a : Reg)
  /-- R299. XTOS: XCHG with register 0 as the address. -/
  | xtos (a : Reg)
  /-- R162. NEG: MVN of a register with itself. -/
  | neg (a : Reg)
  /-- R167. NEGC: MVNC of a register with itself. -/
  | negc (a : Reg)
  /-- R172. NEG8: MVN8 of a register with itself. -/
  | neg8 (a : Reg)
  /-- R177. NEG4: MVN4 of a register with itself. -/
  | neg4 (a : Reg)
  /-- R213. SXL: MLLS of a register with itself. -/
  | sxl (a : Reg)
  /-- R215. SXH: MHLS of a register with itself. -/
  | sxh (a : Reg)
  /-- R217. ROR4: INS4 of a register with itself. -/
  | ror4 (a : Reg)
  /-- R219. SWAP: INS8 of a register with itself. -/
  | swap (a : Reg)
  /-- R221. ROL4: IN12 of a register with itself. -/
  | rol4 (a : Reg)
  /-- R225. ROR: SHR with code 0000. -/
  | ror (a : Reg)
  /-- R231. ASR: SHR with code 0100. -/
  | asr (a : Reg)
  /-- R227. RRC: SHR with code 1000. -/
  | rrc (a : Reg)
  /-- R229. LSR: SHR with code 1100. -/
  | lsr (a : Reg)
  /-- R226. ROL: SHL with code 0101. -/
  | rol (a : Reg)
  /-- R228. RLC: SHL with code 1001. -/
  | rlc (a : Reg)
  /-- R230. LSL: SHL with code 1101. -/
  | lsl (a : Reg)
  deriving DecidableEq, Repr

end Sys2Proof
end

