-- ==== Sys2Proof/WellFormed.lean ====
section
/-! DEFINITION. Which instruction terms are well formed. Every operand but one has a type of exactly the width of its
field, so it cannot be out of range; SBI's constant is the assembler's, and R152 gives it the range -127 to 128. -/

namespace Sys2Proof

/-- An instruction the assembler accepts (R152, R305; D28): the one operand that its type does not bound is in range. -/
def Instr.wf : Instr → Bool
  | .call _ => true
  | .jmp _ _ => true
  | .ret _ => true
  | .loop _ => true
  | .mark => true
  | .stra _ => true
  | .rep _ => true
  | .mvi _ _ => true
  | .out _ _ => true
  | .inp _ _ => true
  | .wr _ _ => true
  | .rd _ _ => true
  | .xchg _ _ => true
  | .noAccess => true
  | .adi _ _ => true
  | .cpi _ _ => true
  | .clc => true
  | .stc => true
  | .cmp _ _ => true
  | .cmpc _ _ => true
  | .mov _ _ => true
  | .mvn _ _ => true
  | .add _ _ => true
  | .sub _ _ => true
  | .movc _ _ => true
  | .mvnc _ _ => true
  | .adc _ _ => true
  | .sbc _ _ => true
  | .mov8 _ _ => true
  | .mvn8 _ _ => true
  | .add8 _ _ => true
  | .sub8 _ _ => true
  | .mov4 _ _ => true
  | .mvn4 _ _ => true
  | .add4 _ _ => true
  | .sub4 _ _ => true
  | .not _ _ => true
  | .and _ _ => true
  | .or _ _ => true
  | .xor _ _ => true
  | .mask _ _ => true
  | .rst _ _ => true
  | .setb _ _ => true
  | .inv _ _ => true
  | .btst _ _ => true
  | .mlls _ _ => true
  | .mhls _ _ => true
  | .ins4 _ _ => true
  | .ins8 _ _ => true
  | .in12 _ _ => true
  | .rev _ _ => true
  | .shr _ _ => true
  | .shl _ _ => true
  | .umul _ _ => true
  | .umln _ _ => true
  | .umac _ _ => true
  | .umsb _ _ => true
  | .mul _ _ => true
  | .muln _ _ => true
  | .mac _ _ => true
  | .msub _ _ => true
  | .lpl _ => true
  | .lph _ => true
  | .idiv _ _ => true
  | .fdiv => true
  | .lq _ => true
  | .lr _ => true
  | .jmpAlways _ => true
  | .nop _ => true
  | .jv _ => true
  | .jnv _ => true
  | .jz _ => true
  | .jnz _ => true
  | .jc _ => true
  | .jnc _ => true
  | .retAlways => true
  | .retNever => true
  | .rv => true
  | .rnv => true
  | .rz => true
  | .rnz => true
  | .rc => true
  | .rnc => true
  | .loopAlways => true
  | .loopNever => true
  | .lv => true
  | .lnv => true
  | .lz => true
  | .lnz => true
  | .lc => true
  | .lnc => true
  | .rpt _ => true
  | .sbi _ c => decide (-127 ≤ c) && decide (c ≤ 128)
  | .inc _ => true
  | .dec _ => true
  | .cpz _ => true
  | .xtos _ => true
  | .neg _ => true
  | .negc _ => true
  | .neg8 _ => true
  | .neg4 _ => true
  | .sxl _ => true
  | .sxh _ => true
  | .ror4 _ => true
  | .swap _ => true
  | .rol4 _ => true
  | .ror _ => true
  | .asr _ => true
  | .rrc _ => true
  | .lsr _ => true
  | .rol _ => true
  | .rlc _ => true
  | .lsl _ => true

end Sys2Proof
end

