-- ==== Sys2Proof/Decode.lean ====
section
/-! DEFINITION. Decoding and encoding (30_encoding.md). Every instruction is one 16-bit word (R70); the decoder reads
the fields of R71 to R77 by their bit positions, the encoder adds up the numbers the instruction rules give
(for example 0xD200 + rB * 16 + rA, R163). The decoder is total and rejects a word by the name of a `DecodeError`. -/

namespace Sys2Proof

/-- R79. Bits 15:12, the row of the opcode matrix. -/
def rowOf (w : Word) : BitVec 4 := w.extractLsb' 12 4

/-- R80. Bits 11:8, the column of the opcode matrix. -/
def colOf (w : Word) : BitVec 4 := w.extractLsb' 8 4

/-- R71. The A field, bits 3:0. -/
def regA (w : Word) : Reg := w.extractLsb' 0 4

/-- R71. The B field, bits 7:4, as a register number. -/
def regB (w : Word) : Reg := w.extractLsb' 4 4

/-- R78. `k`, bits 7:4, as a constant. -/
def constK (w : Word) : BitVec 4 := w.extractLsb' 4 4

/-- R75. `imm8`, bits 11:4. -/
def imm8Of (w : Word) : BitVec 8 := w.extractLsb' 4 8

/-- R76. `port7`, bits 10:4. -/
def portOf (w : Word) : Port := w.extractLsb' 4 7

/-- R72. `abs14`, bits 13:0. -/
def absOf (w : Word) : ProgAddr := w.extractLsb' 0 14

/-- R73. `rel9`, bits 8:0. -/
def relOf (w : Word) : BitVec 9 := w.extractLsb' 0 9

/-- Bits 7:0: REP's `count8` (R74), and the bits R82 wants to be zero in RET, LOOP and the no-access form. -/
def lowByteOf (w : Word) : BitVec 8 := w.extractLsb' 0 8

/-- R100. The condition of a code. -/
def Cond.ofCode (c : BitVec 3) : Cond :=
  match c with
  | 0b000#3 => .always
  | 0b001#3 => .never
  | 0b010#3 => .v
  | 0b011#3 => .nv
  | 0b100#3 => .z
  | 0b101#3 => .nz
  | 0b110#3 => .c
  | _ => .nc

/-- R100. The code of a condition. -/
def Cond.code : Cond → Nat
  | .always => 0
  | .never => 1
  | .v => 2
  | .nv => 3
  | .z => 4
  | .nz => 5
  | .c => 6
  | .nc => 7

/-- R73. `cc`, bits 11:9. -/
def condOf (w : Word) : Cond := Cond.ofCode (w.extractLsb' 9 3)

/-- R73, R82. Row 5: RET with bit 8 clear, LOOP with bit 8 set, bits 7:0 zero. -/
def decodeReturn (w : Word) : Except DecodeError Instr :=
  if lowByteOf w ≠ 0#8 then .error .blankBitsSet
  else if w.getLsbD 8 then .ok (.loop (condOf w))
  else .ok (.ret (condOf w))

/-- R74, R82. Row 6: MARK with bits 11:10 = 00, STRA with 01, REP with bits 11:8 = 1000. -/
def decodeMark (w : Word) : Except DecodeError Instr :=
  if w.getLsbD 11 then
    if colOf w = 0x8#4 then .ok (.rep (lowByteOf w)) else .error .unusedEncoding
  else if w.getLsbD 10 then
    if w.extractLsb' 4 6 = 0#6 then .ok (.stra (regA w)) else .error .blankBitsSet
  else
    if w.extractLsb' 0 10 = 0#10 then .ok .mark else .error .blankBitsSet

/-- R80. Row A: the multiplies, the divider's two operations, BTST, CLC and STC. -/
def decodeMultiply (w : Word) : Except DecodeError Instr :=
  match colOf w with
  | 0x0#4 => .ok (.umul (regA w) (regB w))
  | 0x1#4 => .ok (.umln (regA w) (regB w))
  | 0x2#4 => .ok (.umac (regA w) (regB w))
  | 0x3#4 => .ok (.umsb (regA w) (regB w))
  | 0x4#4 => .ok (.mul (regA w) (regB w))
  | 0x5#4 => .ok (.muln (regA w) (regB w))
  | 0x6#4 => .ok (.mac (regA w) (regB w))
  | 0x7#4 => .ok (.msub (regA w) (regB w))
  | 0x8#4 => if lowByteOf w = 0#8 then .ok .fdiv else .error .unusedEncoding
  | 0x9#4 => .ok (.idiv (regA w) (regB w))
  | 0xC#4 => .ok (.btst (regA w) (constK w))
  | 0xE#4 =>
    if lowByteOf w = 0x00#8 then .ok .clc
    else if lowByteOf w = 0x10#8 then .ok .stc
    else .error .unusedEncoding
  | _ => .error .unusedEncoding

/-- R80. Row B: CMP, CMPC and OUT. -/
def decodeCompare (w : Word) : Except DecodeError Instr :=
  if w.getLsbD 11 then .ok (.out (regA w) (portOf w))
  else
    match colOf w with
    | 0x3#4 => .ok (.cmp (regA w) (regB w))
    | 0x7#4 => .ok (.cmpc (regA w) (regB w))
    | _ => .error .unusedEncoding

/-- R80, R82. Row C: IN and the memory formats. -/
def decodeAccess (w : Word) : Except DecodeError Instr :=
  if w.getLsbD 11 then
    match colOf w with
    | 0x8#4 => if lowByteOf w = 0#8 then .ok .noAccess else .error .blankBitsSet
    | 0x9#4 => .ok (.wr (regA w) (regB w))
    | 0xA#4 => .ok (.rd (regA w) (regB w))
    | 0xB#4 => .ok (.xchg (regA w) (regB w))
    | _ => .error .unusedEncoding
  else .ok (.inp (regA w) (portOf w))

/-- R80. Row D: the 16-bit, 8-bit and 4-bit arithmetic. -/
def decodeArith (w : Word) : Except DecodeError Instr :=
  match colOf w with
  | 0x0#4 => .ok (.mov (regA w) (regB w))
  | 0x1#4 => .ok (.mvn (regA w) (regB w))
  | 0x2#4 => .ok (.add (regA w) (regB w))
  | 0x3#4 => .ok (.sub (regA w) (regB w))
  | 0x4#4 => .ok (.movc (regA w) (regB w))
  | 0x5#4 => .ok (.mvnc (regA w) (regB w))
  | 0x6#4 => .ok (.adc (regA w) (regB w))
  | 0x7#4 => .ok (.sbc (regA w) (regB w))
  | 0x8#4 => .ok (.mov8 (regA w) (regB w))
  | 0x9#4 => .ok (.mvn8 (regA w) (regB w))
  | 0xA#4 => .ok (.add8 (regA w) (regB w))
  | 0xB#4 => .ok (.sub8 (regA w) (regB w))
  | 0xC#4 => .ok (.mov4 (regA w) (regB w))
  | 0xD#4 => .ok (.mvn4 (regA w) (regB w))
  | 0xE#4 => .ok (.add4 (regA w) (regB w))
  | _ => .ok (.sub4 (regA w) (regB w))

/-- R80. Row E: logic, bits, inserts and shifts. -/
def decodeLogic (w : Word) : Except DecodeError Instr :=
  match colOf w with
  | 0x0#4 => .ok (.not (regA w) (regB w))
  | 0x1#4 => .ok (.and (regA w) (regB w))
  | 0x2#4 => .ok (.or (regA w) (regB w))
  | 0x3#4 => .ok (.xor (regA w) (regB w))
  | 0x4#4 => .ok (.mask (regA w) (constK w))
  | 0x5#4 => .ok (.rst (regA w) (constK w))
  | 0x6#4 => .ok (.setb (regA w) (constK w))
  | 0x7#4 => .ok (.inv (regA w) (constK w))
  | 0x8#4 => .ok (.mlls (regA w) (regB w))
  | 0x9#4 => .ok (.mhls (regA w) (regB w))
  | 0xA#4 => .ok (.ins4 (regA w) (regB w))
  | 0xB#4 => .ok (.ins8 (regA w) (regB w))
  | 0xC#4 => .ok (.in12 (regA w) (regB w))
  | 0xD#4 => .ok (.rev (regA w) (regB w))
  | 0xE#4 => .ok (.shr (regA w) (constK w))
  | _ => .ok (.shl (regA w) (constK w))

/-- R80, R81. Row F: the reads of the accumulator and the divider, bits 7:4 zero. -/
def decodeUnitRead (w : Word) : Except DecodeError Instr :=
  if constK w ≠ 0#4 then .error .unusedEncoding
  else
    match colOf w with
    | 0x0#4 => .ok (.lpl (regA w))
    | 0x1#4 => .ok (.lph (regA w))
    | 0x2#4 => .ok (.lq (regA w))
    | 0x3#4 => .ok (.lr (regA w))
    | _ => .error .unusedEncoding

/-- R79. The instruction a word is, by bits 15:12, or why it is none. -/
def decode (w : Word) : Except DecodeError Instr :=
  match rowOf w with
  | 0x0#4 | 0x1#4 | 0x2#4 | 0x3#4 => .ok (.call (absOf w))
  | 0x4#4 => .ok (.jmp (condOf w) (relOf w))
  | 0x5#4 => decodeReturn w
  | 0x6#4 => decodeMark w
  | 0x7#4 => .ok (.mvi (regA w) (imm8Of w))
  | 0x8#4 => .ok (.adi (regA w) (imm8Of w))
  | 0x9#4 => .ok (.cpi (regA w) (imm8Of w))
  | 0xA#4 => decodeMultiply w
  | 0xB#4 => decodeCompare w
  | 0xC#4 => decodeAccess w
  | 0xD#4 => decodeArith w
  | 0xE#4 => decodeLogic w
  | _ => decodeUnitRead w

/-- The word `nbits` of whose bits are those of `w`, the rest zero: the instruction as the host numbers its bits.
A CPU16B instruction is one word (R70), so bit 0 of `w` is bit 0 of the word. -/
def tableWord (nbits w : Nat) : Word := BitVec.ofNat 16 (w % 2 ^ nbits)

/-- What the decoder reads from an instruction given as the opcode table numbers its bits. -/
def decodeTableWord (nbits w : Nat) : Option Instr := (decode (tableWord nbits w)).toOption

/-- The word of a number below 2^16. -/
def wordOf (n : Nat) : Word := BitVec.ofNat 16 n

/-- R73. A JMP, RET or LOOP word: `cc` in bits 11:9. -/
def flowWord (base : Nat) (cc : Cond) (low : Nat) : Word := wordOf (base + cc.code * 0x200 + low)

/-- R75. An immediate-data word: `base + imm8 * 16 + rA`. -/
def immWord (base : Nat) (imm : BitVec 8) (a : Reg) : Word := wordOf (base + imm.toNat * 16 + a.toNat)

/-- R76. An I/O word: `base + port7 * 16 + rA`. -/
def portWord (base : Nat) (p : Port) (a : Reg) : Word := wordOf (base + p.toNat * 16 + a.toNat)

/-- R77. An ALU word: the top byte, then the B field (or `k`), then the A field. -/
def aluWord (top : Nat) (b a : BitVec 4) : Word := wordOf (top * 0x100 + b.toNat * 16 + a.toNat)

/-- The machine instruction whose word an instruction's word is (R290 to R292): itself, but for the aliases. -/
def Instr.canon : Instr → Instr
  | .call target => .call target
  | .jmp cc rel => .jmp cc rel
  | .ret cc => .ret cc
  | .loop cc => .loop cc
  | .mark => .mark
  | .stra a => .stra a
  | .rep count => .rep count
  | .mvi a imm => .mvi a imm
  | .out a port => .out a port
  | .inp a port => .inp a port
  | .wr a b => .wr a b
  | .rd a b => .rd a b
  | .xchg a b => .xchg a b
  | .noAccess => .noAccess
  | .adi a imm => .adi a imm
  | .cpi a imm => .cpi a imm
  | .clc => .clc
  | .stc => .stc
  | .cmp a b => .cmp a b
  | .cmpc a b => .cmpc a b
  | .mov a b => .mov a b
  | .mvn a b => .mvn a b
  | .add a b => .add a b
  | .sub a b => .sub a b
  | .movc a b => .movc a b
  | .mvnc a b => .mvnc a b
  | .adc a b => .adc a b
  | .sbc a b => .sbc a b
  | .mov8 a b => .mov8 a b
  | .mvn8 a b => .mvn8 a b
  | .add8 a b => .add8 a b
  | .sub8 a b => .sub8 a b
  | .mov4 a b => .mov4 a b
  | .mvn4 a b => .mvn4 a b
  | .add4 a b => .add4 a b
  | .sub4 a b => .sub4 a b
  | .not a b => .not a b
  | .and a b => .and a b
  | .or a b => .or a b
  | .xor a b => .xor a b
  | .mask a k => .mask a k
  | .rst a k => .rst a k
  | .setb a k => .setb a k
  | .inv a k => .inv a k
  | .btst a k => .btst a k
  | .mlls a b => .mlls a b
  | .mhls a b => .mhls a b
  | .ins4 a b => .ins4 a b
  | .ins8 a b => .ins8 a b
  | .in12 a b => .in12 a b
  | .rev a b => .rev a b
  | .shr a k => .shr a k
  | .shl a k => .shl a k
  | .umul a b => .umul a b
  | .umln a b => .umln a b
  | .umac a b => .umac a b
  | .umsb a b => .umsb a b
  | .mul a b => .mul a b
  | .muln a b => .muln a b
  | .mac a b => .mac a b
  | .msub a b => .msub a b
  | .lpl a => .lpl a
  | .lph a => .lph a
  | .idiv a b => .idiv a b
  | .fdiv => .fdiv
  | .lq a => .lq a
  | .lr a => .lr a
  | .jmpAlways rel => .jmp .always rel
  | .nop rel => .jmp .never rel
  | .jv rel => .jmp .v rel
  | .jnv rel => .jmp .nv rel
  | .jz rel => .jmp .z rel
  | .jnz rel => .jmp .nz rel
  | .jc rel => .jmp .c rel
  | .jnc rel => .jmp .nc rel
  | .retAlways => .ret .always
  | .retNever => .ret .never
  | .rv => .ret .v
  | .rnv => .ret .nv
  | .rz => .ret .z
  | .rnz => .ret .nz
  | .rc => .ret .c
  | .rnc => .ret .nc
  | .loopAlways => .loop .always
  | .loopNever => .loop .never
  | .lv => .loop .v
  | .lnv => .loop .nv
  | .lz => .loop .z
  | .lnz => .loop .nz
  | .lc => .loop .c
  | .lnc => .loop .nc
  | .rpt count => .rep count
  | .sbi a c => .adi a (BitVec.ofInt 8 (-c))
  | .inc a => .adi a 1#8
  | .dec a => .adi a (-1#8)
  | .cpz a => .cpi a 0#8
  | .xtos a => .xchg a sp
  | .neg a => .mvn a a
  | .negc a => .mvnc a a
  | .neg8 a => .mvn8 a a
  | .neg4 a => .mvn4 a a
  | .sxl a => .mlls a a
  | .sxh a => .mhls a a
  | .ror4 a => .ins4 a a
  | .swap a => .ins8 a a
  | .rol4 a => .in12 a a
  | .ror a => .shr a 0b0000#4
  | .asr a => .shr a 0b0100#4
  | .rrc a => .shr a 0b1000#4
  | .lsr a => .shr a 0b1100#4
  | .rol a => .shl a 0b0101#4
  | .rlc a => .shl a 0b1001#4
  | .lsl a => .shl a 0b1101#4

/-- The word of an instruction: for a machine instruction the number its rule gives, for an alias the number of R291,
R292 and R299. -/
def encode : Instr → Word
  | .call target => wordOf target.toNat
  | .jmp cc rel => flowWord 0x4000 cc rel.toNat
  | .ret cc => flowWord 0x5000 cc 0
  | .loop cc => flowWord 0x5100 cc 0
  | .mark => wordOf 0x6000
  | .stra a => wordOf (0x6400 + a.toNat)
  | .rep count => wordOf (0x6800 + count.toNat)
  | .mvi a imm => immWord 0x7000 imm a
  | .out a port => portWord 0xB800 port a
  | .inp a port => portWord 0xC000 port a
  | .wr a b => aluWord 0xC9 b a
  | .rd a b => aluWord 0xCA b a
  | .xchg a b => aluWord 0xCB b a
  | .noAccess => wordOf 0xC800
  | .adi a imm => immWord 0x8000 imm a
  | .cpi a imm => immWord 0x9000 imm a
  | .clc => wordOf 0xAE00
  | .stc => wordOf 0xAE10
  | .cmp a b => aluWord 0xB3 b a
  | .cmpc a b => aluWord 0xB7 b a
  | .mov a b => aluWord 0xD0 b a
  | .mvn a b => aluWord 0xD1 b a
  | .add a b => aluWord 0xD2 b a
  | .sub a b => aluWord 0xD3 b a
  | .movc a b => aluWord 0xD4 b a
  | .mvnc a b => aluWord 0xD5 b a
  | .adc a b => aluWord 0xD6 b a
  | .sbc a b => aluWord 0xD7 b a
  | .mov8 a b => aluWord 0xD8 b a
  | .mvn8 a b => aluWord 0xD9 b a
  | .add8 a b => aluWord 0xDA b a
  | .sub8 a b => aluWord 0xDB b a
  | .mov4 a b => aluWord 0xDC b a
  | .mvn4 a b => aluWord 0xDD b a
  | .add4 a b => aluWord 0xDE b a
  | .sub4 a b => aluWord 0xDF b a
  | .not a b => aluWord 0xE0 b a
  | .and a b => aluWord 0xE1 b a
  | .or a b => aluWord 0xE2 b a
  | .xor a b => aluWord 0xE3 b a
  | .mask a k => aluWord 0xE4 k a
  | .rst a k => aluWord 0xE5 k a
  | .setb a k => aluWord 0xE6 k a
  | .inv a k => aluWord 0xE7 k a
  | .btst a k => aluWord 0xAC k a
  | .mlls a b => aluWord 0xE8 b a
  | .mhls a b => aluWord 0xE9 b a
  | .ins4 a b => aluWord 0xEA b a
  | .ins8 a b => aluWord 0xEB b a
  | .in12 a b => aluWord 0xEC b a
  | .rev a b => aluWord 0xED b a
  | .shr a k => aluWord 0xEE k a
  | .shl a k => aluWord 0xEF k a
  | .umul a b => aluWord 0xA0 b a
  | .umln a b => aluWord 0xA1 b a
  | .umac a b => aluWord 0xA2 b a
  | .umsb a b => aluWord 0xA3 b a
  | .mul a b => aluWord 0xA4 b a
  | .muln a b => aluWord 0xA5 b a
  | .mac a b => aluWord 0xA6 b a
  | .msub a b => aluWord 0xA7 b a
  | .lpl a => aluWord 0xF0 0#4 a
  | .lph a => aluWord 0xF1 0#4 a
  | .idiv a b => aluWord 0xA9 b a
  | .fdiv => wordOf 0xA800
  | .lq a => aluWord 0xF2 0#4 a
  | .lr a => aluWord 0xF3 0#4 a
  | .jmpAlways rel => wordOf (0x4000 + rel.toNat)
  | .nop rel => wordOf (0x4200 + rel.toNat)
  | .jv rel => wordOf (0x4400 + rel.toNat)
  | .jnv rel => wordOf (0x4600 + rel.toNat)
  | .jz rel => wordOf (0x4800 + rel.toNat)
  | .jnz rel => wordOf (0x4A00 + rel.toNat)
  | .jc rel => wordOf (0x4C00 + rel.toNat)
  | .jnc rel => wordOf (0x4E00 + rel.toNat)
  | .retAlways => wordOf 0x5000
  | .retNever => wordOf 0x5200
  | .rv => wordOf 0x5400
  | .rnv => wordOf 0x5600
  | .rz => wordOf 0x5800
  | .rnz => wordOf 0x5A00
  | .rc => wordOf 0x5C00
  | .rnc => wordOf 0x5E00
  | .loopAlways => wordOf 0x5100
  | .loopNever => wordOf 0x5300
  | .lv => wordOf 0x5500
  | .lnv => wordOf 0x5700
  | .lz => wordOf 0x5900
  | .lnz => wordOf 0x5B00
  | .lc => wordOf 0x5D00
  | .lnc => wordOf 0x5F00
  | .rpt count => wordOf (0x6800 + count.toNat)
  | .sbi a c => immWord 0x8000 (BitVec.ofInt 8 (-c)) a
  | .inc a => wordOf (0x8010 + a.toNat)
  | .dec a => wordOf (0x8FF0 + a.toNat)
  | .cpz a => wordOf (0x9000 + a.toNat)
  | .xtos a => wordOf (0xCB00 + a.toNat)
  | .neg a => wordOf (0xD100 + 17 * a.toNat)
  | .negc a => wordOf (0xD500 + 17 * a.toNat)
  | .neg8 a => wordOf (0xD900 + 17 * a.toNat)
  | .neg4 a => wordOf (0xDD00 + 17 * a.toNat)
  | .sxl a => wordOf (0xE800 + 17 * a.toNat)
  | .sxh a => wordOf (0xE900 + 17 * a.toNat)
  | .ror4 a => wordOf (0xEA00 + 17 * a.toNat)
  | .swap a => wordOf (0xEB00 + 17 * a.toNat)
  | .rol4 a => wordOf (0xEC00 + 17 * a.toNat)
  | .ror a => wordOf (0xEE00 + a.toNat)
  | .asr a => wordOf (0xEE40 + a.toNat)
  | .rrc a => wordOf (0xEE80 + a.toNat)
  | .lsr a => wordOf (0xEEC0 + a.toNat)
  | .rol a => wordOf (0xEF50 + a.toNat)
  | .rlc a => wordOf (0xEF90 + a.toNat)
  | .lsl a => wordOf (0xEFD0 + a.toNat)

end Sys2Proof
end

