-- ==== Sys2Proof/Config.lean ====
section
/-! DEFINITION. What an implementation of the CPU16B fixes (00_scope.md R6), and the free values: the values the
spec says a model draws freely (00_scope.md R9 `any16`, `any1`; 93_implementation_defined.md). A free value is an
opaque constant applied to the state's draw counter: nothing can be proved of it. -/

namespace Sys2Proof

/-- R6. The open parameters that one implementation fixes. `State.cfg` holds them, no instruction changes them, and
a statement about every state is a statement about every choice of them (log entry 2). -/
structure Config where
  /-- `MEM_WORDS`: how many memory words exist, at addresses 0 to `memWords - 1`; 1 to 65,536 -/
  memWords : Nat
  /-- `HAS_MAC`: the multiply-accumulate unit of 45_multiply_accumulate.md is present -/
  hasMac : Bool
  /-- `HAS_DIV`: the divider of 46_division.md is present -/
  hasDiv : Bool
  /-- `CARRY_IS_BORROW`: C = 1 after a subtraction means that a borrow occurred (R12) -/
  carryIsBorrow : Bool
  deriving DecidableEq, Repr

/-- R6. The range the spec gives `MEM_WORDS`. -/
abbrev Config.wf (c : Config) : Prop := 1 ≤ c.memWords ∧ c.memWords ≤ 65536

/-- `any16` of R276 (and of R272 for a zero divisor): the quotient a division by zero leaves, at the draw numbered
by the argument. DESIGN CHOICE: nothing is known of it (log entry 9). -/
opaque Config.freeQuotient : Nat → Word

/-- `any16` of R276 (and of R272 for a zero divisor): the remainder a division by zero leaves (log entry 9). -/
opaque Config.freeRemainder : Nat → Word

/-- `any16` of R273: what LQ reads while the divider works (log entry 10). -/
opaque Config.busyQuotient : Nat → Word

/-- `any15` of R274: bits 14:0 of what LR reads while the divider works (log entry 10). -/
opaque Config.busyRemainder : Nat → BitVec 15

/-- `any16` of R134: what an IN reads from a port when the platform's supply (`State.portIn`) is used up
(log entry 11). -/
opaque Config.portRead : Nat → Port → Word

end Sys2Proof
end

