-- ==== Sys2Proof/Machine/State.lean ====
section
/-! DEFINITION. The state of one CPU16B core as plain data (10_state.md R20 to R37), the reasons a step can stop, and
the state after reset. -/

namespace Sys2Proof.Machine

/-- R24. The three 1-bit flags; `true` is 1, the source's "set". No instruction reads them as a word (R30). -/
structure Flags where
  /-- C, carry (R25) -/
  c : Bool
  /-- V, overflow (R26) -/
  v : Bool
  /-- Z, zero (R27) -/
  z : Bool
  deriving DecidableEq, Repr

/-- One externally visible access of an I/O port. -/
inductive PortEvent where
  /-- R133: an OUT asserted IOWR with this port number and this value on DOUT. -/
  | write (port : Port) (value : Word)
  /-- R134: an IN asserted IORD with this port number and read this value from DIN. -/
  | read (port : Port) (value : Word)
  deriving DecidableEq, Repr

/-- R50, R51. The memory words that hold a value. The word at address `a` is stored as two cells: its bits 7:0 under
the key `2 * a` and its bits 15:8 under `2 * a + 1`. The keys are the model's own, no instruction can tell the order of
the two (R54; log entry 4). The canonical form is rising keys without repeats (`Memory.wf`); an unlisted word holds no
value (R51). -/
abbrev Memory := List Host.Cell

/-- R20. The state of a CPU16B core, and below it what the model adds (log entries 2, 5, 11, 12). -/
structure State where
  /-- `x[0..15]`, the general registers (R21) -/
  x : Vector Word 16
  /-- `pc`, the program counter (R23) -/
  pc : ProgAddr
  /-- `C`, `V`, `Z` (R24) -/
  flags : Flags
  /-- `mem`, the memory (R50) -/
  mem : Memory
  /-- `ras[0..15]`, the return-address stack (R29) -/
  ras : Vector ProgAddr 16
  /-- `rsp`, the return-stack pointer (R29) -/
  rsp : BitVec 4
  /-- `acc`, the multiply accumulator (R31) -/
  acc : BitVec 32
  /-- `divq`, the divider's quotient (R32) -/
  divq : Word
  /-- `divr`, the divider's remainder (R32) -/
  divr : Word
  /-- `divd`, the divisor of the last IDIV (R32) -/
  divd : Word
  /-- `div_wait`, 0 to 18: how many instructions the divider still works (R32, R270) -/
  divWait : Nat
  /-- `mvi_lat`: the register of a just-executed first MVI (R33) -/
  mviLat : Option Reg
  /-- `rep`, 0 to 257: how many executions of the instruction at `pc` are still owed (R34) -/
  rep : Nat
  /-- the I/O ports as the outside sees them: every access made so far, oldest first (R133, R134) -/
  io : List PortEvent
  /-- what the platform will put on DIN at the coming INs, next first; when it is used up an IN reads a free value
  (`PortRead` of R6; log entry 11) -/
  portIn : List Word
  /-- the memory addresses the program has stored to, rising: a fetch from one is refused (R62; log entry 5) -/
  stored : List Nat
  /-- how many free values have been drawn; the model's own counter (log entry 12) -/
  drawn : Nat
  /-- the implementation's parameters (R6), changed by nothing (log entry 2) -/
  cfg : Config
  deriving DecidableEq, Repr

/-- Why the machine stops at a memory access. The hardware raises no exception (R320): each of these is a `refuse` of
the spec, at an address where the spec says that no word exists or that the word holds no value. All are safe: the
model stops where the hardware goes on with something the spec does not state. -/
inductive Fault where
  /-- R51, R53: RD or XCHG reads at or above `MEM_WORDS`. Safe. -/
  | readOutside (addr : Word)
  /-- R52, R53: WR stores at or above `MEM_WORDS`. Safe. -/
  | writeOutside (addr : Word)
  /-- R51, R64: the program counter is at or above `MEM_WORDS`. Safe. -/
  | fetchOutside (pc : ProgAddr)
  /-- R51, R37: RD or XCHG reads a word that nothing has written or loaded. Safe. -/
  | readUnwritten (addr : Word)
  /-- R51, R64: the program counter is at a word that nothing has written or loaded. Safe. -/
  | fetchUnwritten (pc : ProgAddr)
  deriving DecidableEq, Repr

/-- Why the model gives a step no meaning. Each but the first is a `refuse` of the spec, in a case to which the spec
gives no effect. All are safe: nothing can be proved of a run past them. -/
inductive Refusal where
  /-- An instruction that has no meaning in this model yet; no arm of `exec` answers it. Safe. -/
  | notModelled (mnemonic : String)
  /-- R81, R82: the fetched word is no instruction. Safe. -/
  | notAnInstruction (why : DecodeError) (word : Word)
  /-- R62, R353: the fetched word is one the program has stored to. Safe. -/
  | selfModifyingCode (pc : ProgAddr)
  /-- R110: a CALL, a taken JMP or RET, a LOOP, MARK, STRA, REP or MVI while a repetition is pending. Safe. -/
  | undefinedUnderRep
  /-- R130: an MVI directly after a first MVI that named another register. Safe. -/
  | mviPairMismatch
  /-- R271, R272: IDIV or FDIV while the divider works. Safe. -/
  | divisionWhileBusy
  /-- R2, R250 and the head of 45_multiply_accumulate.md: an instruction of the absent multiply unit. Safe. -/
  | noMacUnit
  /-- R2 and the head of 46_division.md: an instruction of the absent divider. Safe. -/
  | noDivUnit
  /-- R305, R152: SBI with a constant the assembler rejects, so that no machine word exists; no decoded word is one.
  Safe. -/
  | operandOutOfRange
  deriving DecidableEq, Repr

/-- The outcome of an instruction or of a step. -/
abbrev Result := Host.Outcome State Fault Refusal

/-- The parameters the machine has in `State.reset`: the whole address space, both optional units, and the spec's
default sense of C. DESIGN CHOICE, unsafe (log entry 2). -/
def resetConfig : Config :=
  { memWords := 65536, hasMac := true, hasDiv := true, carryIsBorrow := true }

/-- R36, R340, R341. The state after reset. `pc` = 0, `rep` = 0, `mvi_lat` = none and `div_wait` = 0 are the spec's;
memory lists nothing; every register the spec leaves unspecified holds 0, DESIGN CHOICE, unsafe (log entry 1). -/
def State.reset : State where
  x := Vector.replicate 16 0
  pc := 0
  flags := { c := false, v := false, z := false }
  mem := []
  ras := Vector.replicate 16 0
  rsp := 0
  acc := 0
  divq := 0
  divr := 0
  divd := 0
  divWait := 0
  mviLat := none
  rep := 0
  io := []
  portIn := []
  stored := []
  drawn := 0
  cfg := resetConfig

end Sys2Proof.Machine
end

