-- ==== Sys2Proof/Machine/Flags.lean ====
section
/-! DEFINITION. The flag computations: the 16-bit adder with its flags (00_scope.md R11, R12), the conditions
(40_program_flow.md R100) and the carry of a shift (44_shift_rotate.md R211). Sums are exact integers, narrowed at the
end (R8). -/

namespace Sys2Proof.Machine

/-- A flag as a number, 0 or 1. -/
def bit (b : Bool) : Nat := if b then 1 else 0

/-- R11, R12. Whether an exact signed result lies outside the 16-bit range. -/
def outsideSigned (t : Int) : Bool := decide (t < -32768) || decide (32767 < t)

/-- What the adder returns: the 16-bit result `r` and the flags `c`, `v`, `z`. -/
structure Sum where
  r : Word
  flags : Flags
  deriving DecidableEq, Repr

/-- R11. `add16(a, b, cin)`. -/
def add16 (a b : Word) (cin : Bool) : Sum :=
  let t : Nat := a.toNat + b.toNat + bit cin
  let r : Word := BitVec.ofNat 16 t
  { r := r
    flags :=
      { c := decide (2 ^ 16 ≤ t)
        v := outsideSigned (a.toInt + b.toInt + bit cin)
        z := decide (r = 0#16) } }

/-- R12. `sub16(a, b, bin)`; the first argument is the parameter `CARRY_IS_BORROW`, the sense of the C it returns. -/
def sub16 (carryIsBorrow : Bool) (a b : Word) (bin : Bool) : Sum :=
  let t : Int := (a.toNat : Int) - b.toNat - bit bin
  let r : Word := BitVec.ofInt 16 t
  let borrow : Bool := decide (t < 0)
  { r := r
    flags :=
      { c := if carryIsBorrow then borrow else !borrow
        v := outsideSigned (a.toInt - b.toInt - bit bin)
        z := decide (r = 0#16) } }

/-- R12. `borrow_in(C)`: the incoming borrow of SBC, CMPC and MVNC. -/
def borrowIn (carryIsBorrow : Bool) (c : Bool) : Bool := if carryIsBorrow then c else !c

/-- R100. `cond(cc)` on the current flags. -/
def condHolds (cc : Cond) (f : Flags) : Bool :=
  match cc with
  | .always => true
  | .never => false
  | .v => f.v
  | .nv => !f.v
  | .z => f.z
  | .nz => !f.z
  | .c => f.c
  | .nc => !f.c

/-- R211. The carry after SHR or SHL with code `k`, from the register before the shift (log entry 29). -/
def carryOut (k : BitVec 4) (old : Word) : Bool := if k.getLsbD 0 then old.getLsbD 15 else old.getLsbD 0

/-- R211. The bit SHR or SHL with code `k` shifts in; the "Link bit" is C before the instruction
(log entry 29). -/
def shiftIn (k : BitVec 4) (old : Word) (c : Bool) : Bool :=
  match k.getLsbD 3, k.getLsbD 2 with
  | false, false => old.getLsbD 0
  | false, true => old.getLsbD 15
  | true, false => c
  | true, true => k.getLsbD 1

end Sys2Proof.Machine
end

