-- ==== Sys2Proof/Machine/Operands.lean ====
section
/-! DEFINITION. The operand forms: extension of immediates (00_scope.md R8, 30_encoding.md R78), parts of a register,
bit selection (43_logical.md), inserts, reversal and the one-place shifts (44_shift_rotate.md), products
(45_multiply_accumulate.md R250), and the addresses a jump or a memory instruction makes. -/

namespace Sys2Proof.Machine

/-- R8. `sext_16` of a byte: the form of `imm8` in MVI, ADI and CPI, and of the byte MLLS and MHLS take. -/
def signExtend8 (b : BitVec 8) : Word := b.signExtend 16

/-- R103. `s(rel9)` on the 14 bits of a program address. -/
def signExtend9 (r : BitVec 9) : ProgAddr := r.signExtend 14

/-- Bits 7:0 of a register, its lower byte (R54). -/
def lowByte (v : Word) : BitVec 8 := v.extractLsb' 0 8

/-- Bits 15:8 of a register, its upper byte (R54). -/
def highByte (v : Word) : BitVec 8 := v.extractLsb' 8 8

/-- Bits 3:0 of a register. -/
def lowNibble (v : Word) : BitVec 4 := v.extractLsb' 0 4

/-- R170 to R174. Replace the lower byte, keep the upper. -/
def withLowByte (v : Word) (b : BitVec 8) : Word := highByte v ++ b

/-- R130. Replace the upper byte, keep the lower. -/
def withHighByte (v : Word) (b : BitVec 8) : Word := b ++ lowByte v

/-- R175 to R179. Replace the low 4 bits, keep the upper 12. -/
def withLowNibble (v : Word) (n : BitVec 4) : Word := v.extractLsb' 4 12 ++ n

/-- R195. `2^k - 1`: the low `k` bits. -/
def lowMask (k : BitVec 4) : Word := BitVec.ofNat 16 (2 ^ k.toNat - 1)

/-- R196 to R198. `2^k`: the bit `k`. -/
def bitMask (k : BitVec 4) : Word := BitVec.ofNat 16 (2 ^ k.toNat)

/-- R216. The low 4 bits of `b` above bits 15:4 of `a`. -/
def insert4 (a b : Word) : Word := b.extractLsb' 0 4 ++ a.extractLsb' 4 12

/-- R218. The low 8 bits of `b` above bits 15:8 of `a`. -/
def insert8 (a b : Word) : Word := b.extractLsb' 0 8 ++ a.extractLsb' 8 8

/-- R220. The low 12 bits of `b` above bits 15:12 of `a`. -/
def insert12 (a b : Word) : Word := b.extractLsb' 0 12 ++ a.extractLsb' 12 4

/-- R222. The sixteen bits in reverse order. -/
def reverse16 (v : Word) : Word := v.reverse

/-- R223. `old` shifted right by one place, `top` shifted into bit 15. -/
def shiftRight1 (top : Bool) (old : Word) : Word := BitVec.ofBool top ++ old.extractLsb' 1 15

/-- R224. `old` shifted left by one place, `low` shifted into bit 0. -/
def shiftLeft1 (old : Word) (low : Bool) : Word := old.extractLsb' 0 15 ++ BitVec.ofBool low

/-- R250. The exact product of two registers read as signed or as unsigned numbers. -/
def product (signed : Bool) (a b : Word) : Int :=
  if signed then a.toInt * b.toInt else (a.toNat : Int) * (b.toNat : Int)

/-- R64. `zext_16(pc)`: the memory address a fetch reads. -/
def fetchAddr (pc : ProgAddr) : Word := pc.setWidth 16

/-- R103. The target of a taken jump at `pc`, modulo 2^14. -/
def jumpTarget (pc : ProgAddr) (rel : BitVec 9) : ProgAddr := pc + 1 + signExtend9 rel

end Sys2Proof.Machine
end

