-- ==== Sys2Proof/Machine/Ops.lean ====
section
/-! DEFINITION. The named operations over registers, memory, the return-address stack, the ports and the units, and
the operations the meanings share. There is no operation that takes an exception and none that returns from one: the
hardware has no exception, trap, interrupt or mode (60_exceptions.md R320 to R328). -/

namespace Sys2Proof.Machine

/-! Registers and flags. -/

/-- R9, R21. `x[i]`. -/
def State.getReg (s : State) (r : Reg) : Word := s.x[r.toNat]

/-- R9, R21. `x[i] <- v`. -/
def State.setReg (s : State) (r : Reg) (v : Word) : State := { s with x := s.x.set r.toNat v }

/-- R24. Write all three flags. -/
def State.setFlags (s : State) (f : Flags) : State := { s with flags := f }

/-- R25. Write C and leave V and Z. -/
def State.setC (s : State) (c : Bool) : State := { s with flags := { s.flags with c := c } }

/-! The end of an instruction. -/

/-- R9, R101. `seq`: `pc` itself while REP holds it, else the next address modulo 2^14. -/
def seqPc (s : State) : ProgAddr := if 1 < s.rep then s.pc else s.pc + 1

/-- R10, R101. What every instruction does at its end: the program counter, and the common updates of `rep`, `mvi_lat`
and `div_wait`. -/
def retire (target : ProgAddr) (s : State) : State :=
  { s with pc := target, rep := s.rep - 1, mviLat := none, divWait := s.divWait - 1 }

/-- The end of an instruction that is not a taken control transfer: `pc <- seq`. -/
def finish (s : State) : Result := .next (retire (seqPc s) s)

/-- The end of a taken control transfer: `pc <- target`. -/
def goTo (target : ProgAddr) (s : State) : Result := .next (retire target s)

/-- Go on with what an operation answered, or stop where it stopped. -/
def andThen {α : Type} (o : Host.Outcome α Fault Refusal) (k : α → Result) : Result :=
  match o with
  | .next a => k a
  | .fault r => .fault r
  | .refused r => .refused r

/-- R110. A form the spec gives no meaning while a repetition is pending. -/
def unlessRep (s : State) (r : Result) : Result :=
  if s.rep = 0 then r else .refused .undefinedUnderRep

/-- R2. A form of the optional multiply unit. -/
def needMac (s : State) (r : Result) : Result := if s.cfg.hasMac then r else .refused .noMacUnit

/-- R2. A form of the optional divider. -/
def needDiv (s : State) (r : Result) : Result := if s.cfg.hasDiv then r else .refused .noDivUnit

/-! Memory. -/

/-- The cells' keys rise without repeats from `lo` on. -/
def Memory.wfFrom : Nat → Memory → Bool
  | _, [] => true
  | lo, (a, _) :: m => decide (lo ≤ a) && Memory.wfFrom (a + 1) m

/-- The canonical form of memory: the keys rise without repeats. An unlisted cell holds no value, so no entry can equal
what an unlisted address reads as. -/
def Memory.wf (m : Memory) : Bool := Memory.wfFrom 0 m

/-- Every cell lies below the key `n`. -/
def Memory.below (n : Nat) (m : Memory) : Bool := m.all fun c => decide (c.1 < n)

/-- The byte stored under a key; `none` where nothing has been written or loaded (R51). This is the ONE place that says
what an unlisted address reads as. -/
def Memory.readByte : Memory → Nat → Option Byte
  | [], _ => none
  | (b, u) :: m, a => if a = b then some u else Memory.readByte m a

/-- Store a byte under a key, keeping the canonical form. -/
def Memory.writeByte : Memory → Nat → Byte → Memory
  | [], a, v => [(a, v)]
  | (b, u) :: m, a, v =>
    if a < b then (a, v) :: (b, u) :: m
    else if a = b then (a, v) :: m
    else (b, u) :: Memory.writeByte m a v

/-- The key of bits 7:0 of the word at an address. -/
def lowKey (a : Word) : Nat := 2 * a.toNat

/-- The key of bits 15:8 of the word at an address. -/
def highKey (a : Word) : Nat := 2 * a.toNat + 1

/-- R50. The word at an address, or `none` where it holds no value. -/
def Memory.readWord (m : Memory) (a : Word) : Option Word :=
  match Memory.readByte m (lowKey a), Memory.readByte m (highKey a) with
  | some lo, some hi => some (hi ++ lo)
  | _, _ => none

/-- R50. Store a word at an address. -/
def Memory.writeWord (m : Memory) (a : Word) (v : Word) : Memory :=
  Memory.writeByte (Memory.writeByte m (lowKey a) (lowByte v)) (highKey a) (highByte v)

/-- A list of addresses rises without repeats from `lo` on. -/
def risingFrom : Nat → List Nat → Bool
  | _, [] => true
  | lo, a :: l => decide (lo ≤ a) && risingFrom (a + 1) l

/-- Put an address into a rising list. -/
def addAddr : List Nat → Nat → List Nat
  | [], a => [a]
  | b :: l, a => if a < b then a :: b :: l else if a = b then b :: l else b :: addAddr l a

/-- R51. `MemRead(a, 16)`. -/
def State.loadWord (s : State) (a : Word) : Host.Outcome Word Fault Refusal :=
  if s.cfg.memWords ≤ a.toNat then .fault (.readOutside a)
  else
    match Memory.readWord s.mem a with
    | some v => .next v
    | none => .fault (.readUnwritten a)

/-- R52, R62. `MemWrite(a, 16, v)`; the address is noted as one the program has stored to. -/
def State.storeWord (s : State) (a v : Word) : Result :=
  if s.cfg.memWords ≤ a.toNat then .fault (.writeOutside a)
  else .next { s with mem := Memory.writeWord s.mem a v, stored := addAddr s.stored a.toNat }

/-- R64, R62, R353. The word at `pc`, if it exists, holds a value and is not one the program has stored to. -/
def State.fetchWord (s : State) : Host.Outcome Word Fault Refusal :=
  if s.cfg.memWords ≤ (fetchAddr s.pc).toNat then .fault (.fetchOutside s.pc)
  else
    match Memory.readWord s.mem (fetchAddr s.pc) with
    | none => .fault (.fetchUnwritten s.pc)
    | some w =>
      if s.stored.contains (fetchAddr s.pc).toNat then .refused (.selfModifyingCode s.pc) else .next w

/-- The platform's load of one word of the program image (R36, R341): memory holds the word, the program has not stored
to it, and memory is large enough to have it (log entries 3, 5). -/
def State.loadProgramWord (s : State) (a v : Word) : State :=
  { s with
    mem := Memory.writeWord s.mem a v
    stored := s.stored.filter fun b => b != a.toNat
    cfg := { s.cfg with memWords := max s.cfg.memWords (a.toNat + 1) } }

/-! The return-address stack (R29). -/

/-- R29. `RasPush(v)`: increment the pointer, then write. -/
def State.rasPush (s : State) (v : ProgAddr) : State :=
  { s with rsp := s.rsp + 1, ras := s.ras.set (s.rsp + 1).toNat v }

/-- R29. `RasTop()`. -/
def State.rasTop (s : State) : ProgAddr := s.ras[s.rsp.toNat]

/-- R29. `RasDrop()`. -/
def State.rasDrop (s : State) : State := { s with rsp := s.rsp - 1 }

/-! The I/O ports (R35). -/

/-- R133. `PortWrite(p, v)`: an event the outside sees. -/
def State.portWrite (s : State) (p : Port) (v : Word) : State := { s with io := s.io ++ [.write p v] }

/-- R134. The value the platform gives to the coming `PortRead(p)`: the next supplied one, or a free value. -/
def State.portInput (s : State) (p : Port) : Word :=
  match s.portIn with
  | v :: _ => v
  | [] => Config.portRead s.drawn p

/-- R134. `PortRead(p)`'s effects: the event, and the supply or the draw used up. -/
def State.portRead (s : State) (p : Port) : State :=
  { s with
    io := s.io ++ [.read p (s.portInput p)]
    portIn := s.portIn.tail
    drawn := if s.portIn.isEmpty then s.drawn + 1 else s.drawn }

/-! What the meanings share. -/

/-- Write register A and end. -/
def writeReg (a : Reg) (v : Word) (s : State) : Result := finish (s.setReg a v)

/-- Write register A and all three flags from an adder result and end (R150). -/
def writeSum (a : Reg) (t : Sum) (s : State) : Result := finish ((s.setReg a t.r).setFlags t.flags)

/-- Write all three flags from an adder result, discard the result, and end (R154, R158). -/
def writeSumFlags (t : Sum) (s : State) : Result := finish (s.setFlags t.flags)

/-- Write C and end. -/
def writeC (c : Bool) (s : State) : Result := finish (s.setC c)

/-- R12. `sub16` with the machine's sense of C. -/
def State.sub16 (s : State) (a b : Word) (bin : Bool) : Sum :=
  Sys2Proof.Machine.sub16 s.cfg.carryIsBorrow a b bin

/-- R12. The incoming borrow that the C flag is. -/
def State.borrowIn (s : State) : Bool := Sys2Proof.Machine.borrowIn s.cfg.carryIsBorrow s.flags.c

/-- R151. Add the sign-extended constant to register A. -/
def addImmediate (a : Reg) (imm : BitVec 8) (s : State) : Result :=
  writeSum a (add16 (s.getReg a) (signExtend8 imm) false) s

/-- R154. Compare register A with the sign-extended constant. -/
def compareImmediate (a : Reg) (imm : BitVec 8) (s : State) : Result :=
  writeSumFlags (s.sub16 (s.getReg a) (signExtend8 imm) false) s

/-- R161. Write minus register B to register A. -/
def negateInto (a b : Reg) (s : State) : Result := writeSum a (s.sub16 0#16 (s.getReg b) false) s

/-- R166. Write minus register B, less the incoming borrow, to register A. -/
def negateBorrowInto (a b : Reg) (s : State) : Result := writeSum a (s.sub16 0#16 (s.getReg b) s.borrowIn) s

/-- R171. Write minus the low byte of register B to the low byte of register A. -/
def negateByteInto (a b : Reg) (s : State) : Result :=
  writeReg a (withLowByte (s.getReg a) (-lowByte (s.getReg b))) s

/-- R176. Write minus the low nibble of register B to the low nibble of register A. -/
def negateNibbleInto (a b : Reg) (s : State) : Result :=
  writeReg a (withLowNibble (s.getReg a) (-lowNibble (s.getReg b))) s

/-- R223. SHR with control code `k`. -/
def shiftRight (a : Reg) (k : BitVec 4) (s : State) : Result :=
  let old := s.getReg a
  finish ((s.setReg a (shiftRight1 (shiftIn k old s.flags.c) old)).setC (carryOut k old))

/-- R224. SHL with control code `k`. -/
def shiftLeft (a : Reg) (k : BitVec 4) (s : State) : Result :=
  let old := s.getReg a
  finish ((s.setReg a (shiftLeft1 old (shiftIn k old s.flags.c))).setC (carryOut k old))

/-- R103. Jump on a condition; not while a repetition is pending (R110). -/
def jumpOn (cc : Cond) (rel : BitVec 9) (s : State) : Result :=
  if condHolds cc s.flags then unlessRep s (goTo (jumpTarget s.pc rel) s) else finish s

/-- R105. Return on a condition: read the stack, then decrement the pointer. -/
def returnOn (cc : Cond) (s : State) : Result :=
  if condHolds cc s.flags then unlessRep s (goTo s.rasTop s.rasDrop) else finish s

/-- R106. Loop on a condition: keep the address when it loops, drop it when it exits. -/
def loopOn (cc : Cond) (s : State) : Result :=
  unlessRep s (if condHolds cc s.flags then goTo s.rasTop s else finish s.rasDrop)

/-- R109. Owe `count8 + 2` executions of the next instruction, set after the common updates. -/
def repeatNext (count : BitVec 8) (s : State) : Result :=
  unlessRep s (.next { retire (s.pc + 1) s with rep := count.toNat + 2 })

/-- R137. Exchange register A with the word at `addr`. -/
def exchange (a : Reg) (addr : Word) (s : State) : Result :=
  andThen (s.loadWord addr) fun old =>
    andThen (s.storeWord addr (s.getReg a)) fun s' => finish (s'.setReg a old)

/-- R250. Write the accumulator, modulo 2^32, and end. -/
def writeAcc (v : Int) (s : State) : Result := needMac s (finish { s with acc := BitVec.ofInt 32 v })

/-- R271, R272, R276. Leave quotient and remainder of `n` by `d` in the divider, or two free values for a zero `d`. -/
def State.divideBy (s : State) (n : Nat) (d : Word) : State :=
  if d = 0#16 then
    { s with
      divq := Config.freeQuotient s.drawn, divr := Config.freeRemainder s.drawn, drawn := s.drawn + 1 }
  else { s with divq := BitVec.ofNat 16 (n / d.toNat), divr := BitVec.ofNat 16 (n % d.toNat) }

/-- R270. Start the divider: refused while it works (R271); else `s'` is its new state and it works for `wait` more
instructions. -/
def startDivision (wait : Nat) (s s' : State) : Result :=
  needDiv s
    (if s.divWait = 0 then .next { retire (seqPc s) s' with divWait := wait }
    else .refused .divisionWhileBusy)

/-- R273 to R275. Read a register of the divider: `done` when it is ready, else the free value `busy`, drawn now. -/
def readDivider (a : Reg) (done busy : Word) (s : State) : Result :=
  needDiv s
    (if s.divWait = 0 then writeReg a done s
    else writeReg a busy { s with drawn := s.drawn + 1 })

end Sys2Proof.Machine
end

