-- ==== Sys2Proof/Machine/Access.lean ====
section
/-! DEFINITION. Immediate data, input and output, memory access (41_memory_io.md): MVI, OUT, IN, WR, RD, XCHG (XTOS) and
the form with no access. None writes a flag. -/

namespace Sys2Proof.Machine

/-- R130. MVI: the first of a pair sign-extends and sets the latch after the common updates, the second replaces the
upper byte; not while a repetition is pending (R110). -/
def execMvi (a : Reg) (imm : BitVec 8) (s : State) : Result :=
  unlessRep s
    (match s.mviLat with
    | none => .next { retire (seqPc s) (s.setReg a (signExtend8 imm)) with mviLat := some a }
    | some r =>
      if r = a then writeReg a (withHighByte (s.getReg a) imm) s else .refused .mviPairMismatch)

/-- R133. OUT. -/
def execOut (a : Reg) (p : Port) (s : State) : Result := finish (s.portWrite p (s.getReg a))

/-- R134. IN. -/
def execIn (a : Reg) (p : Port) (s : State) : Result := writeReg a (s.portInput p) (s.portRead p)

/-- R135. WR. -/
def execWr (a b : Reg) (s : State) : Result := andThen (s.storeWord (s.getReg b) (s.getReg a)) finish

/-- R136. RD. -/
def execRd (a b : Reg) (s : State) : Result := andThen (s.loadWord (s.getReg b)) fun v => writeReg a v s

/-- R137. XCHG. -/
def execXchg (a b : Reg) (s : State) : Result := exchange a (s.getReg b) s

/-- R299. XTOS: XCHG with register 0 as the address. -/
def execXtos (a : Reg) (s : State) : Result := exchange a (s.getReg sp) s

/-- R138. The memory format with neither access. -/
def execNoAccess (s : State) : Result := finish s

end Sys2Proof.Machine
end

