-- ==== Sys2Proof/Machine/Arith.lean ====
section
/-! DEFINITION. Arithmetic (42_arithmetic.md): the constant forms, the comparisons, CLC and STC, the eight 16-bit forms
with flags, and the 8-bit and 4-bit forms without (R150). -/

namespace Sys2Proof.Machine

/-- R151. ADI. -/
def execAdi (a : Reg) (imm : BitVec 8) (s : State) : Result := addImmediate a imm s

/-- R152. SBI: ADI of the negated constant; a constant outside -127 to 128 is one the assembler rejects (R305). -/
def execSbi (a : Reg) (c : Int) (s : State) : Result :=
  if -127 ≤ c ∧ c ≤ 128 then addImmediate a (BitVec.ofInt 8 (-c)) s else .refused .operandOutOfRange

/-- R153. INC. -/
def execInc (a : Reg) (s : State) : Result := addImmediate a 1#8 s

/-- R153. DEC. -/
def execDec (a : Reg) (s : State) : Result := addImmediate a (-1#8) s

/-- R154. CPI. -/
def execCpi (a : Reg) (imm : BitVec 8) (s : State) : Result := compareImmediate a imm s

/-- R155. CPZ. -/
def execCpz (a : Reg) (s : State) : Result := compareImmediate a 0#8 s

/-- R156. CLC. -/
def execClc (s : State) : Result := writeC false s

/-- R157. STC. -/
def execStc (s : State) : Result := writeC true s

/-- R158. CMP. -/
def execCmp (a b : Reg) (s : State) : Result := writeSumFlags (s.sub16 (s.getReg a) (s.getReg b) false) s

/-- R159. CMPC. -/
def execCmpc (a b : Reg) (s : State) : Result := writeSumFlags (s.sub16 (s.getReg a) (s.getReg b) s.borrowIn) s

/-- R160. MOV: the adder with a zero operand (D9). -/
def execMov (a b : Reg) (s : State) : Result := writeSum a (add16 0#16 (s.getReg b) false) s

/-- R161. MVN. -/
def execMvn (a b : Reg) (s : State) : Result := negateInto a b s

/-- R162. NEG. -/
def execNeg (a : Reg) (s : State) : Result := negateInto a a s

/-- R163. ADD. -/
def execAdd (a b : Reg) (s : State) : Result := writeSum a (add16 (s.getReg a) (s.getReg b) false) s

/-- R164. SUB. -/
def execSub (a b : Reg) (s : State) : Result := writeSum a (s.sub16 (s.getReg a) (s.getReg b) false) s

/-- R165. MOVC. -/
def execMovc (a b : Reg) (s : State) : Result := writeSum a (add16 0#16 (s.getReg b) s.flags.c) s

/-- R166. MVNC. -/
def execMvnc (a b : Reg) (s : State) : Result := negateBorrowInto a b s

/-- R167. NEGC. -/
def execNegc (a : Reg) (s : State) : Result := negateBorrowInto a a s

/-- R168. ADC. -/
def execAdc (a b : Reg) (s : State) : Result := writeSum a (add16 (s.getReg a) (s.getReg b) s.flags.c) s

/-- R169. SBC. -/
def execSbc (a b : Reg) (s : State) : Result := writeSum a (s.sub16 (s.getReg a) (s.getReg b) s.borrowIn) s

/-- R170. MOV8. -/
def execMov8 (a b : Reg) (s : State) : Result := writeReg a (withLowByte (s.getReg a) (lowByte (s.getReg b))) s

/-- R171. MVN8. -/
def execMvn8 (a b : Reg) (s : State) : Result := negateByteInto a b s

/-- R172. NEG8. -/
def execNeg8 (a : Reg) (s : State) : Result := negateByteInto a a s

/-- R173. ADD8. -/
def execAdd8 (a b : Reg) (s : State) : Result :=
  writeReg a (withLowByte (s.getReg a) (lowByte (s.getReg a) + lowByte (s.getReg b))) s

/-- R174. SUB8. -/
def execSub8 (a b : Reg) (s : State) : Result :=
  writeReg a (withLowByte (s.getReg a) (lowByte (s.getReg a) - lowByte (s.getReg b))) s

/-- R175. MOV4. -/
def execMov4 (a b : Reg) (s : State) : Result := writeReg a (withLowNibble (s.getReg a) (lowNibble (s.getReg b))) s

/-- R176. MVN4. -/
def execMvn4 (a b : Reg) (s : State) : Result := negateNibbleInto a b s

/-- R177. NEG4. -/
def execNeg4 (a : Reg) (s : State) : Result := negateNibbleInto a a s

/-- R178. ADD4. -/
def execAdd4 (a b : Reg) (s : State) : Result :=
  writeReg a (withLowNibble (s.getReg a) (lowNibble (s.getReg a) + lowNibble (s.getReg b))) s

/-- R179. SUB4. -/
def execSub4 (a b : Reg) (s : State) : Result :=
  writeReg a (withLowNibble (s.getReg a) (lowNibble (s.getReg a) - lowNibble (s.getReg b))) s

end Sys2Proof.Machine
end

