-- ==== Sys2Proof/Machine/Divide.lean ====
section
/-! DEFINITION. The optional divider (46_division.md). It works beside the program for 18 instructions after IDIV and 17
after FDIV (R270); no flag is written. -/

namespace Sys2Proof.Machine

/-- R271. IDIV: the operands are read now, and the divisor is kept for FDIV. -/
def execIdiv (a b : Reg) (s : State) : Result :=
  startDivision 18 s { s.divideBy (s.getReg a).toNat (s.getReg b) with divd := s.getReg b }

/-- R272. FDIV: 16 more places of the quotient, from the remainder. -/
def execFdiv (s : State) : Result := startDivision 17 s (s.divideBy (s.divr.toNat * 2 ^ 16) s.divd)

/-- R273. LQ. -/
def execLq (a : Reg) (s : State) : Result := readDivider a s.divq (Config.busyQuotient s.drawn) s

/-- R274, R275. LR: bit 15 is 1 while the divider works. -/
def execLr (a : Reg) (s : State) : Result := readDivider a s.divr (1#1 ++ Config.busyRemainder s.drawn) s

end Sys2Proof.Machine
end

