-- ==== Sys2Proof/Machine/Flow.lean ====
section
/-! DEFINITION. Program flow control (40_program_flow.md): CALL; JMP, RET and LOOP with their conditional names; MARK;
STRA; REP; NOP. None writes a flag or a general register. -/

namespace Sys2Proof.Machine

/-- R102. CALL. -/
def execCall (target : ProgAddr) (s : State) : Result := unlessRep s (goTo target (s.rasPush (s.pc + 1)))

/-- R103. JMP. -/
def execJmp (cc : Cond) (rel : BitVec 9) (s : State) : Result := jumpOn cc rel s

/-- R105. RET. -/
def execRet (cc : Cond) (s : State) : Result := returnOn cc s

/-- R106. LOOP. -/
def execLoop (cc : Cond) (s : State) : Result := loopOn cc s

/-- R107. MARK. -/
def execMark (s : State) : Result := unlessRep s (finish (s.rasPush (s.pc + 1)))

/-- R108. STRA: bits 15:14 of the register are dropped. -/
def execStra (a : Reg) (s : State) : Result := unlessRep s (finish (s.rasPush ((s.getReg a).extractLsb' 0 14)))

/-- R109. REP. -/
def execRep (count : BitVec 8) (s : State) : Result := repeatNext count s

/-- R292. RPT. -/
def execRpt (count : BitVec 8) (s : State) : Result := repeatNext count s

/-- R103. JMP, Always. -/
def execJmpAlways (rel : BitVec 9) (s : State) : Result := jumpOn .always rel s

/-- R111. NOP. -/
def execNop (rel : BitVec 9) (s : State) : Result := jumpOn .never rel s

/-- R103. JV: JMP if V = 1. -/
def execJv (rel : BitVec 9) (s : State) : Result := jumpOn .v rel s

/-- R103. JNV: JMP if V = 0. -/
def execJnv (rel : BitVec 9) (s : State) : Result := jumpOn .nv rel s

/-- R103. JZ: JMP if Z = 1. -/
def execJz (rel : BitVec 9) (s : State) : Result := jumpOn .z rel s

/-- R103. JNZ: JMP if Z = 0. -/
def execJnz (rel : BitVec 9) (s : State) : Result := jumpOn .nz rel s

/-- R103. JC: JMP if C = 1. -/
def execJc (rel : BitVec 9) (s : State) : Result := jumpOn .c rel s

/-- R103. JNC: JMP if C = 0. -/
def execJnc (rel : BitVec 9) (s : State) : Result := jumpOn .nc rel s

/-- R105. RET, Always. -/
def execRetAlways (s : State) : Result := returnOn .always s

/-- R105. RET, Never. -/
def execRetNever (s : State) : Result := returnOn .never s

/-- R105. RV: RET if V = 1. -/
def execRv (s : State) : Result := returnOn .v s

/-- R105. RNV: RET if V = 0. -/
def execRnv (s : State) : Result := returnOn .nv s

/-- R105. RZ: RET if Z = 1. -/
def execRz (s : State) : Result := returnOn .z s

/-- R105. RNZ: RET if Z = 0. -/
def execRnz (s : State) : Result := returnOn .nz s

/-- R105. RC: RET if C = 1. -/
def execRc (s : State) : Result := returnOn .c s

/-- R105. RNC: RET if C = 0. -/
def execRnc (s : State) : Result := returnOn .nc s

/-- R106. LOOP, Always. -/
def execLoopAlways (s : State) : Result := loopOn .always s

/-- R106. LOOP, Never. -/
def execLoopNever (s : State) : Result := loopOn .never s

/-- R106. LV: LOOP if V = 1. -/
def execLv (s : State) : Result := loopOn .v s

/-- R106. LNV: LOOP if V = 0. -/
def execLnv (s : State) : Result := loopOn .nv s

/-- R106. LZ: LOOP if Z = 1. -/
def execLz (s : State) : Result := loopOn .z s

/-- R106. LNZ: LOOP if Z = 0. -/
def execLnz (s : State) : Result := loopOn .nz s

/-- R106. LC: LOOP if C = 1. -/
def execLc (s : State) : Result := loopOn .c s

/-- R106. LNC: LOOP if C = 0. -/
def execLnc (s : State) : Result := loopOn .nc s

end Sys2Proof.Machine
end

