-- ==== Sys2Proof/Machine/Logic.lean ====
section
/-! DEFINITION. Logical operations (43_logical.md). None writes a flag (R190). -/

namespace Sys2Proof.Machine

/-- R191. NOT. -/
def execNot (a b : Reg) (s : State) : Result := writeReg a (s.getReg b ^^^ 0xFFFF#16) s

/-- R192. AND. -/
def execAnd (a b : Reg) (s : State) : Result := writeReg a (s.getReg a &&& s.getReg b) s

/-- R193. OR. -/
def execOr (a b : Reg) (s : State) : Result := writeReg a (s.getReg a ||| s.getReg b) s

/-- R194. XOR. -/
def execXor (a b : Reg) (s : State) : Result := writeReg a (s.getReg a ^^^ s.getReg b) s

/-- R195. MASK. -/
def execMask (a : Reg) (k : BitVec 4) (s : State) : Result := writeReg a (s.getReg a &&& lowMask k) s

/-- R196. RST. -/
def execRst (a : Reg) (k : BitVec 4) (s : State) : Result := writeReg a (s.getReg a &&& ~~~bitMask k) s

/-- R197. SET. -/
def execSetb (a : Reg) (k : BitVec 4) (s : State) : Result := writeReg a (s.getReg a ||| bitMask k) s

/-- R198. INV. -/
def execInv (a : Reg) (k : BitVec 4) (s : State) : Result := writeReg a (s.getReg a ^^^ bitMask k) s

end Sys2Proof.Machine
end

