-- ==== Sys2Proof/Machine/Multiply.lean ====
section
/-! DEFINITION. The optional multiply-accumulate unit (45_multiply_accumulate.md). Results are taken modulo 2^32 and are
there for the next instruction (R250, R261); no flag is written. -/

namespace Sys2Proof.Machine

/-- R251. UMUL. -/
def execUmul (a b : Reg) (s : State) : Result := writeAcc (product false (s.getReg a) (s.getReg b)) s

/-- R252. UMLN. -/
def execUmln (a b : Reg) (s : State) : Result := writeAcc (0 - product false (s.getReg a) (s.getReg b)) s

/-- R253. UMAC. -/
def execUmac (a b : Reg) (s : State) : Result := writeAcc (s.acc.toNat + product false (s.getReg a) (s.getReg b)) s

/-- R254. UMSB. -/
def execUmsb (a b : Reg) (s : State) : Result := writeAcc (s.acc.toNat - product false (s.getReg a) (s.getReg b)) s

/-- R255. MUL. -/
def execMul (a b : Reg) (s : State) : Result := writeAcc (product true (s.getReg a) (s.getReg b)) s

/-- R256. MULN. -/
def execMuln (a b : Reg) (s : State) : Result := writeAcc (0 - product true (s.getReg a) (s.getReg b)) s

/-- R257. MAC. -/
def execMac (a b : Reg) (s : State) : Result := writeAcc (s.acc.toNat + product true (s.getReg a) (s.getReg b)) s

/-- R258. MSUB. -/
def execMsub (a b : Reg) (s : State) : Result := writeAcc (s.acc.toNat - product true (s.getReg a) (s.getReg b)) s

/-- R259. LPL. -/
def execLpl (a : Reg) (s : State) : Result := needMac s (writeReg a (s.acc.extractLsb' 0 16) s)

/-- R260. LPH. -/
def execLph (a : Reg) (s : State) : Result := needMac s (writeReg a (s.acc.extractLsb' 16 16) s)

end Sys2Proof.Machine
end

