-- ==== Sys2Proof/Machine/Shift.lean ====
section
/-! DEFINITION. Bit test, sign extension, insert, reverse, shift and rotate (44_shift_rotate.md). BTST, SHR and SHL
write C and no other flag; the rest write none (R234). -/

namespace Sys2Proof.Machine

/-- R210. BTST. -/
def execBtst (a : Reg) (k : BitVec 4) (s : State) : Result := writeC ((s.getReg a).getLsbD k.toNat) s

/-- R212. MLLS. -/
def execMlls (a b : Reg) (s : State) : Result := writeReg a (signExtend8 (lowByte (s.getReg b))) s

/-- R213. SXL. -/
def execSxl (a : Reg) (s : State) : Result := writeReg a (signExtend8 (lowByte (s.getReg a))) s

/-- R214. MHLS. -/
def execMhls (a b : Reg) (s : State) : Result := writeReg a (signExtend8 (highByte (s.getReg b))) s

/-- R215. SXH. -/
def execSxh (a : Reg) (s : State) : Result := writeReg a (signExtend8 (highByte (s.getReg a))) s

/-- R216. INS4. -/
def execIns4 (a b : Reg) (s : State) : Result := writeReg a (insert4 (s.getReg a) (s.getReg b)) s

/-- R217. ROR4. -/
def execRor4 (a : Reg) (s : State) : Result := writeReg a (insert4 (s.getReg a) (s.getReg a)) s

/-- R218. INS8. -/
def execIns8 (a b : Reg) (s : State) : Result := writeReg a (insert8 (s.getReg a) (s.getReg b)) s

/-- R219. SWAP. -/
def execSwap (a : Reg) (s : State) : Result := writeReg a (insert8 (s.getReg a) (s.getReg a)) s

/-- R220. IN12. -/
def execIn12 (a b : Reg) (s : State) : Result := writeReg a (insert12 (s.getReg a) (s.getReg b)) s

/-- R221. ROL4. -/
def execRol4 (a : Reg) (s : State) : Result := writeReg a (insert12 (s.getReg a) (s.getReg a)) s

/-- R222. REV. -/
def execRev (a b : Reg) (s : State) : Result := writeReg a (reverse16 (s.getReg b)) s

/-- R223. SHR. -/
def execShr (a : Reg) (k : BitVec 4) (s : State) : Result := shiftRight a k s

/-- R224. SHL. -/
def execShl (a : Reg) (k : BitVec 4) (s : State) : Result := shiftLeft a k s

/-- R225. ROR. -/
def execRor (a : Reg) (s : State) : Result := shiftRight a 0b0000#4 s

/-- R231. ASR. -/
def execAsr (a : Reg) (s : State) : Result := shiftRight a 0b0100#4 s

/-- R227. RRC. -/
def execRrc (a : Reg) (s : State) : Result := shiftRight a 0b1000#4 s

/-- R229. LSR. -/
def execLsr (a : Reg) (s : State) : Result := shiftRight a 0b1100#4 s

/-- R226. ROL. -/
def execRol (a : Reg) (s : State) : Result := shiftLeft a 0b0101#4 s

/-- R228. RLC. -/
def execRlc (a : Reg) (s : State) : Result := shiftLeft a 0b1001#4 s

/-- R230. LSL. -/
def execLsl (a : Reg) (s : State) : Result := shiftLeft a 0b1101#4 s

end Sys2Proof.Machine
end

