-- ==== Sys2Proof/Machine/Dispatch.lean ====
section
/-! DEFINITION. One arm per constructor of Instr, each a direct call of that instruction's meaning. -/

namespace Sys2Proof.Machine

def exec (i : Instr) (s : State) : Host.Outcome State Fault Refusal :=
  match i with
  | .call target => Sys2Proof.Machine.execCall target s
  | .jmp cc rel => Sys2Proof.Machine.execJmp cc rel s
  | .ret cc => Sys2Proof.Machine.execRet cc s
  | .loop cc => Sys2Proof.Machine.execLoop cc s
  | .mark => Sys2Proof.Machine.execMark s
  | .stra a => Sys2Proof.Machine.execStra a s
  | .rep count => Sys2Proof.Machine.execRep count s
  | .mvi a imm => Sys2Proof.Machine.execMvi a imm s
  | .out a port => Sys2Proof.Machine.execOut a port s
  | .inp a port => Sys2Proof.Machine.execIn a port s
  | .wr a b => Sys2Proof.Machine.execWr a b s
  | .rd a b => Sys2Proof.Machine.execRd a b s
  | .xchg a b => Sys2Proof.Machine.execXchg a b s
  | .noAccess => Sys2Proof.Machine.execNoAccess s
  | .adi a imm => Sys2Proof.Machine.execAdi a imm s
  | .cpi a imm => Sys2Proof.Machine.execCpi a imm s
  | .clc => Sys2Proof.Machine.execClc s
  | .stc => Sys2Proof.Machine.execStc s
  | .cmp a b => Sys2Proof.Machine.execCmp a b s
  | .cmpc a b => Sys2Proof.Machine.execCmpc a b s
  | .mov a b => Sys2Proof.Machine.execMov a b s
  | .mvn a b => Sys2Proof.Machine.execMvn a b s
  | .add a b => Sys2Proof.Machine.execAdd a b s
  | .sub a b => Sys2Proof.Machine.execSub a b s
  | .movc a b => Sys2Proof.Machine.execMovc a b s
  | .mvnc a b => Sys2Proof.Machine.execMvnc a b s
  | .adc a b => Sys2Proof.Machine.execAdc a b s
  | .sbc a b => Sys2Proof.Machine.execSbc a b s
  | .mov8 a b => Sys2Proof.Machine.execMov8 a b s
  | .mvn8 a b => Sys2Proof.Machine.execMvn8 a b s
  | .add8 a b => Sys2Proof.Machine.execAdd8 a b s
  | .sub8 a b => Sys2Proof.Machine.execSub8 a b s
  | .mov4 a b => Sys2Proof.Machine.execMov4 a b s
  | .mvn4 a b => Sys2Proof.Machine.execMvn4 a b s
  | .add4 a b => Sys2Proof.Machine.execAdd4 a b s
  | .sub4 a b => Sys2Proof.Machine.execSub4 a b s
  | .not a b => Sys2Proof.Machine.execNot a b s
  | .and a b => Sys2Proof.Machine.execAnd a b s
  | .or a b => Sys2Proof.Machine.execOr a b s
  | .xor a b => Sys2Proof.Machine.execXor a b s
  | .mask a k => Sys2Proof.Machine.execMask a k s
  | .rst a k => Sys2Proof.Machine.execRst a k s
  | .setb a k => Sys2Proof.Machine.execSetb a k s
  | .inv a k => Sys2Proof.Machine.execInv a k s
  | .btst a k => Sys2Proof.Machine.execBtst a k s
  | .mlls a b => Sys2Proof.Machine.execMlls a b s
  | .mhls a b => Sys2Proof.Machine.execMhls a b s
  | .ins4 a b => Sys2Proof.Machine.execIns4 a b s
  | .ins8 a b => Sys2Proof.Machine.execIns8 a b s
  | .in12 a b => Sys2Proof.Machine.execIn12 a b s
  | .rev a b => Sys2Proof.Machine.execRev a b s
  | .shr a k => Sys2Proof.Machine.execShr a k s
  | .shl a k => Sys2Proof.Machine.execShl a k s
  | .umul a b => Sys2Proof.Machine.execUmul a b s
  | .umln a b => Sys2Proof.Machine.execUmln a b s
  | .umac a b => Sys2Proof.Machine.execUmac a b s
  | .umsb a b => Sys2Proof.Machine.execUmsb a b s
  | .mul a b => Sys2Proof.Machine.execMul a b s
  | .muln a b => Sys2Proof.Machine.execMuln a b s
  | .mac a b => Sys2Proof.Machine.execMac a b s
  | .msub a b => Sys2Proof.Machine.execMsub a b s
  | .lpl a => Sys2Proof.Machine.execLpl a s
  | .lph a => Sys2Proof.Machine.execLph a s
  | .idiv a b => Sys2Proof.Machine.execIdiv a b s
  | .fdiv => Sys2Proof.Machine.execFdiv s
  | .lq a => Sys2Proof.Machine.execLq a s
  | .lr a => Sys2Proof.Machine.execLr a s
  | .jmpAlways rel => Sys2Proof.Machine.execJmpAlways rel s
  | .nop rel => Sys2Proof.Machine.execNop rel s
  | .jv rel => Sys2Proof.Machine.execJv rel s
  | .jnv rel => Sys2Proof.Machine.execJnv rel s
  | .jz rel => Sys2Proof.Machine.execJz rel s
  | .jnz rel => Sys2Proof.Machine.execJnz rel s
  | .jc rel => Sys2Proof.Machine.execJc rel s
  | .jnc rel => Sys2Proof.Machine.execJnc rel s
  | .retAlways => Sys2Proof.Machine.execRetAlways s
  | .retNever => Sys2Proof.Machine.execRetNever s
  | .rv => Sys2Proof.Machine.execRv s
  | .rnv => Sys2Proof.Machine.execRnv s
  | .rz => Sys2Proof.Machine.execRz s
  | .rnz => Sys2Proof.Machine.execRnz s
  | .rc => Sys2Proof.Machine.execRc s
  | .rnc => Sys2Proof.Machine.execRnc s
  | .loopAlways => Sys2Proof.Machine.execLoopAlways s
  | .loopNever => Sys2Proof.Machine.execLoopNever s
  | .lv => Sys2Proof.Machine.execLv s
  | .lnv => Sys2Proof.Machine.execLnv s
  | .lz => Sys2Proof.Machine.execLz s
  | .lnz => Sys2Proof.Machine.execLnz s
  | .lc => Sys2Proof.Machine.execLc s
  | .lnc => Sys2Proof.Machine.execLnc s
  | .rpt count => Sys2Proof.Machine.execRpt count s
  | .sbi a c => Sys2Proof.Machine.execSbi a c s
  | .inc a => Sys2Proof.Machine.execInc a s
  | .dec a => Sys2Proof.Machine.execDec a s
  | .cpz a => Sys2Proof.Machine.execCpz a s
  | .xtos a => Sys2Proof.Machine.execXtos a s
  | .neg a => Sys2Proof.Machine.execNeg a s
  | .negc a => Sys2Proof.Machine.execNegc a s
  | .neg8 a => Sys2Proof.Machine.execNeg8 a s
  | .neg4 a => Sys2Proof.Machine.execNeg4 a s
  | .sxl a => Sys2Proof.Machine.execSxl a s
  | .sxh a => Sys2Proof.Machine.execSxh a s
  | .ror4 a => Sys2Proof.Machine.execRor4 a s
  | .swap a => Sys2Proof.Machine.execSwap a s
  | .rol4 a => Sys2Proof.Machine.execRol4 a s
  | .ror a => Sys2Proof.Machine.execRor a s
  | .asr a => Sys2Proof.Machine.execAsr a s
  | .rrc a => Sys2Proof.Machine.execRrc a s
  | .lsr a => Sys2Proof.Machine.execLsr a s
  | .rol a => Sys2Proof.Machine.execRol a s
  | .rlc a => Sys2Proof.Machine.execRlc a s
  | .lsl a => Sys2Proof.Machine.execLsl a s

end Sys2Proof.Machine
end

