-- ==== Sys2Proof/Machine/Step.lean ====
section
/-! DEFINITION. One step of the machine: fetch, decode, execute (40_program_flow.md R101). -/

namespace Sys2Proof.Machine

/-- R101. Execute the instruction at `pc`; the common updates of R10 are part of the instruction's own meaning. -/
def step (s : State) : Result :=
  andThen s.fetchWord fun w =>
    match decode w with
    | .ok i => exec i s
    | .error e => .refused (.notAnInstruction e w)

/-- The state with an instruction, numbered as the opcode table numbers its bits, loaded at `pc`: the word at `pc` is
loaded memory, not one the program has stored to, and the memory reaches it. Nothing else changes. -/
def State.withFetchWord (s : State) (nbits w : Nat) : State := s.loadProgramWord (fetchAddr s.pc) (tableWord nbits w)

end Sys2Proof.Machine
end

