-- ==== Sys2Proof/Safety.lean ====
section
/-! DEFINITION. The terms the claims use: the invariant of the machine, what an instruction leaves unchanged, and the
spec's own arithmetic for the values a claim names, written without the model's operations. -/

namespace Sys2Proof.Machine

/-- The invariant of the machine. Reset meets it and every step keeps it (stated as obligations). -/
structure Inv (s : State) : Prop where
  /-- R6: the range of `MEM_WORDS`. -/
  config : s.cfg.wf
  /-- Memory is in its canonical form. -/
  memory : Memory.wf s.mem = true
  /-- R51, R52: no word beyond `MEM_WORDS` holds a value. -/
  memoryInside : Memory.below (2 * s.cfg.memWords) s.mem = true
  /-- The stored-to addresses rise without repeats. -/
  storedRising : risingFrom 0 s.stored = true
  /-- R52: the program stores inside `MEM_WORDS` only. -/
  storedInside : ∀ a ∈ s.stored, a < s.cfg.memWords
  /-- R51: a word the program has stored to holds a value. -/
  storedWritten : ∀ a ∈ s.stored, (Memory.readWord s.mem (BitVec.ofNat 16 a)).isSome = true
  /-- R20, R34: the range of the repeat counter. -/
  repeats : s.rep ≤ 257
  /-- R110: no MVI pair is open while a repetition is pending. -/
  latch : s.rep ≠ 0 → s.mviLat = none
  /-- R20, R32: the range of the divider's wait counter. -/
  wait : s.divWait ≤ 18
  /-- R272: the remainder is below the divisor ("r < d"), but after a division by zero. -/
  remainder : s.divd ≠ 0#16 → s.divr.toNat < s.divd.toNat
  /-- R2: an absent divider never works. -/
  noDivider : s.cfg.hasDiv = false → s.divWait = 0

/-- Every step from a state of this set answers a next state: the run is safe for one more step. -/
def Runs (s : State) : Prop := ∃ t, step s = .next t

end Sys2Proof.Machine

namespace Sys2Proof.Claims

open Sys2Proof.Machine

/-- The instruction completes: `exec` answers a next state, and it is as `P` says. -/
def Completes (i : Instr) (s : State) (P : State → Prop) : Prop := ∃ t, exec i s = .next t ∧ P t

/-- The instruction's word, as a number. -/
def HasWord (i : Instr) (n : Nat) : Prop := (encode i).toNat = n

/-! Frames. -/

/-- No general register changes. -/
def KeepsRegs (s t : State) : Prop := ∀ r : Reg, t.getReg r = s.getReg r

/-- No general register but `a` changes. -/
def KeepsRegsBut (a : Reg) (s t : State) : Prop := ∀ r : Reg, r ≠ a → t.getReg r = s.getReg r

/-- No byte of memory changes, and no address becomes one the program has stored to. -/
def KeepsMemory (s t : State) : Prop :=
  (∀ n : Nat, Memory.readByte t.mem n = Memory.readByte s.mem n) ∧ t.stored = s.stored

/-- The return-address stack and its pointer do not change. -/
def KeepsRas (s t : State) : Prop := t.ras = s.ras ∧ t.rsp = s.rsp

/-- The divider's registers do not change (its wait counter apart). -/
def KeepsDivider (s t : State) : Prop := t.divq = s.divq ∧ t.divr = s.divr ∧ t.divd = s.divd

/-- No port is accessed, no supplied input is used. -/
def KeepsPorts (s t : State) : Prop := t.io = s.io ∧ t.portIn = s.portIn

/-- No free value is drawn, no parameter changes. -/
def KeepsModel (s t : State) : Prop := t.drawn = s.drawn ∧ t.cfg = s.cfg

/-- R10, R101. The program counter goes to `target`, and the common updates happen. -/
def Retires (target : ProgAddr) (s t : State) : Prop :=
  t.pc = target ∧ t.rep = s.rep - 1 ∧ t.mviLat = none ∧ t.divWait = s.divWait - 1

/-- R9, R101. `seq`. -/
def next (s : State) : ProgAddr := if 1 < s.rep then s.pc else s.pc + 1

/-- The common updates with `pc <- seq`. -/
def Advances (s t : State) : Prop := Retires (next s) s t

/-- All but the registers, the flags, the program counter and the three counters is unchanged. -/
def KeepsRest (s t : State) : Prop :=
  KeepsMemory s t ∧ KeepsRas s t ∧ t.acc = s.acc ∧ KeepsDivider s t ∧ KeepsPorts s t ∧ KeepsModel s t

/-- The instruction writes `v` to register `a` and `f` to the flags, and nothing else. -/
def WritesReg (a : Reg) (v : Word) (f : Flags) (s t : State) : Prop :=
  t.getReg a = v ∧ t.flags = f ∧ KeepsRegsBut a s t ∧ Advances s t ∧ KeepsRest s t

/-- The instruction writes `f` to the flags, and nothing else. -/
def WritesFlags (f : Flags) (s t : State) : Prop :=
  t.flags = f ∧ KeepsRegs s t ∧ Advances s t ∧ KeepsRest s t

/-- R9. The instruction writes `v` to register `a` and `f` to the flags, then `pc <- seq`, and nothing else but the
counters of R10, of which `Obligations.EveryInstructionMakesTheCommonUpdates` speaks. -/
def SetsReg (a : Reg) (v : Word) (f : Flags) (s t : State) : Prop :=
  t.getReg a = v ∧ t.flags = f ∧ KeepsRegsBut a s t ∧ t.pc = next s ∧ KeepsRest s t

/-- R9. As `SetsReg`, for an instruction that writes no register. -/
def SetsFlags (f : Flags) (s t : State) : Prop :=
  t.flags = f ∧ KeepsRegs s t ∧ t.pc = next s ∧ KeepsRest s t

/-- A control transfer: to `target`, with the stack as `ras` and `rsp`, and nothing else. -/
def Transfers (target : ProgAddr) (ras : Vector ProgAddr 16) (rsp : BitVec 4) (s t : State) : Prop :=
  Retires target s t ∧ t.ras = ras ∧ t.rsp = rsp ∧ t.flags = s.flags ∧ KeepsRegs s t ∧ KeepsMemory s t ∧
    t.acc = s.acc ∧ KeepsDivider s t ∧ KeepsPorts s t ∧ KeepsModel s t

/-- The instruction writes `v` to the accumulator, and nothing else. -/
def WritesAcc (v : Int) (s t : State) : Prop :=
  t.acc = BitVec.ofInt 32 v ∧ t.flags = s.flags ∧ KeepsRegs s t ∧ Advances s t ∧ KeepsMemory s t ∧ KeepsRas s t ∧
    KeepsDivider s t ∧ KeepsPorts s t ∧ KeepsModel s t

/-- A division starts: the divider's wait is `wait`, and nothing but its registers and the draw counter changes. -/
def StartsDivision (wait : Nat) (s t : State) : Prop :=
  t.divWait = wait ∧ t.pc = next s ∧ t.rep = s.rep - 1 ∧ t.mviLat = none ∧ t.flags = s.flags ∧ KeepsRegs s t ∧
    KeepsMemory s t ∧ KeepsRas s t ∧ t.acc = s.acc ∧ KeepsPorts s t ∧ t.cfg = s.cfg

/-! The spec's arithmetic. -/

/-- R11. The flags of `a + b + cin`. -/
def sumFlags (a b : Word) (cin : Bool) : Flags :=
  { c := decide (65536 ≤ a.toNat + b.toNat + cin.toNat)
    v := decide (a.toInt + b.toInt + cin.toNat < -32768 ∨ 32767 < a.toInt + b.toInt + cin.toNat)
    z := decide ((a.toNat + b.toNat + cin.toNat) % 65536 = 0) }

/-- R12. The flags of `a - b - bin`, C in the sense of `CARRY_IS_BORROW`. -/
def differenceFlags (carryIsBorrow : Bool) (a b : Word) (bin : Bool) : Flags :=
  { c := decide (a.toNat < b.toNat + bin.toNat) == carryIsBorrow
    v := decide (a.toInt - b.toInt - bin.toNat < -32768 ∨ 32767 < a.toInt - b.toInt - bin.toNat)
    z := decide (((a.toNat : Int) - b.toNat - bin.toNat) % 65536 = 0) }

/-- R11, R12. A carry or borrow bit as a word. -/
def bitWord (b : Bool) : Word := BitVec.ofNat 16 b.toNat

/-- R12. The incoming borrow. -/
def borrow (s : State) : Bool := s.flags.c == s.cfg.carryIsBorrow

/-- R100. Whether a condition holds on the flags. -/
def condTrue (cc : Cond) (f : Flags) : Prop :=
  match cc with
  | .always => True
  | .never => False
  | .v => f.v = true
  | .nv => f.v = false
  | .z => f.z = true
  | .nz => f.z = false
  | .c => f.c = true
  | .nc => f.c = false

/-- R292. The table's own row for a conditional jump. -/
def jumpName (cc : Cond) (rel : BitVec 9) : Instr :=
  match cc with
  | .always => .jmpAlways rel
  | .never => .nop rel
  | .v => .jv rel
  | .nv => .jnv rel
  | .z => .jz rel
  | .nz => .jnz rel
  | .c => .jc rel
  | .nc => .jnc rel

/-- R292. The table's own row for a conditional return. -/
def returnName (cc : Cond) : Instr :=
  match cc with
  | .always => .retAlways
  | .never => .retNever
  | .v => .rv
  | .nv => .rnv
  | .z => .rz
  | .nz => .rnz
  | .c => .rc
  | .nc => .rnc

/-- R292. The table's own row for a conditional loop. -/
def loopName (cc : Cond) : Instr :=
  match cc with
  | .always => .loopAlways
  | .never => .loopNever
  | .v => .lv
  | .nv => .lnv
  | .z => .lz
  | .nz => .lnz
  | .c => .lc
  | .nc => .lnc

/-- R211, Figure 8 (log entry 29). The carry after a shift with code `k`. -/
def figure8Carry (k : BitVec 4) (old : Word) : Bool :=
  if k.toNat % 2 = 1 then old.getLsbD 15 else old.getLsbD 0

/-- R211, Figure 8 (log entry 29). The bit a shift with code `k` shifts in. -/
def figure8In (k : BitVec 4) (old : Word) (c : Bool) : Bool :=
  if k.toNat < 4 then old.getLsbD 0
  else if k.toNat < 8 then old.getLsbD 15
  else if k.toNat < 12 then c
  else decide (14 ≤ k.toNat)

/-- Execute an instruction `n` times in a row. -/
def execTimes : Nat → Instr → State → Result
  | 0, _, s => .next s
  | n + 1, i, s =>
    match exec i s with
    | .next t => execTimes n i t
    | .fault r => .fault r
    | .refused r => .refused r

/-- R29. Push a list of addresses, the first one first. -/
def pushAll : List ProgAddr → State → State
  | [], s => s
  | v :: vs, s => pushAll vs (s.rasPush v)

/-- R29. The addresses that `n` successive pops read, and the state after. -/
def popAll : Nat → State → List ProgAddr × State
  | 0, s => ([], s)
  | n + 1, s =>
    let (vs, t) := popAll n s.rasDrop
    (s.rasTop :: vs, t)

/-- R181, R233. Two words as one 32-bit number, the high word first. -/
def pair (hi lo : Word) : Nat := hi.toNat * 65536 + lo.toNat

/-! Which instructions write what (10_state.md R20, R22, R28). The tests are on a machine instruction (`Instr.canon`). -/

/-- R22. The instructions that write no general register. -/
def writesNoRegister (i : Instr) : Bool :=
  match i with
  | .call _ | .jmp _ _ | .ret _ | .loop _ | .mark | .stra _ | .rep _ | .cpi _ _ | .cmp _ _ | .cmpc _ _ | .clc | .stc
  | .btst _ _ | .out _ _ | .wr _ _ | .noAccess | .umul _ _ | .umln _ _ | .umac _ _ | .umsb _ _ | .mul _ _
  | .muln _ _ | .mac _ _ | .msub _ _ | .idiv _ _ | .fdiv => true
  | _ => false

/-- R22. The register an instruction that writes one writes: its register A. -/
def destination (i : Instr) : Option Reg :=
  match i with
  | .mvi a _ | .inp a _ | .rd a _ | .xchg a _ | .adi a _ | .mov a _ | .mvn a _ | .add a _ | .sub a _ | .movc a _
  | .mvnc a _ | .adc a _ | .sbc a _ | .mov8 a _ | .mvn8 a _ | .add8 a _ | .sub8 a _ | .mov4 a _ | .mvn4 a _
  | .add4 a _ | .sub4 a _ | .not a _ | .and a _ | .or a _ | .xor a _ | .mask a _ | .rst a _ | .setb a _ | .inv a _
  | .mlls a _ | .mhls a _ | .ins4 a _ | .ins8 a _ | .in12 a _ | .rev a _ | .shr a _ | .shl a _ | .lpl a | .lph a
  | .lq a | .lr a => some a
  | _ => none

/-- R26, R27. The instructions that write V and Z (and C). -/
def writesAllFlags (i : Instr) : Bool :=
  match i with
  | .adi _ _ | .cpi _ _ | .cmp _ _ | .cmpc _ _ | .mov _ _ | .mvn _ _ | .add _ _ | .sub _ _ | .movc _ _ | .mvnc _ _
  | .adc _ _ | .sbc _ _ => true
  | _ => false

/-- R25. The instructions that write C alone. -/
def writesCOnly (i : Instr) : Bool :=
  match i with
  | .clc | .stc | .btst _ _ | .shr _ _ | .shl _ _ => true
  | _ => false

/-- R56. The instructions that write memory. -/
def writesMemory (i : Instr) : Bool :=
  match i with
  | .wr _ _ | .xchg _ _ => true
  | _ => false

/-- R56. The instructions that access a port. -/
def accessesPort (i : Instr) : Bool :=
  match i with
  | .out _ _ | .inp _ _ => true
  | _ => false

/-- R20. The instructions that write the return-address stack or its pointer. -/
def writesRas (i : Instr) : Bool :=
  match i with
  | .call _ | .mark | .stra _ | .ret _ | .loop _ => true
  | _ => false

/-- R31. The instructions that write the accumulator. -/
def writesAcc (i : Instr) : Bool :=
  match i with
  | .umul _ _ | .umln _ _ | .umac _ _ | .umsb _ _ | .mul _ _ | .muln _ _ | .mac _ _ | .msub _ _ => true
  | _ => false

/-- R20. The instructions that write the divider's registers. -/
def writesDivider (i : Instr) : Bool :=
  match i with
  | .idiv _ _ | .fdiv => true
  | _ => false

/-- R250. The ten instructions of the optional multiply unit, on registers `a` and `b`. -/
def macInstructions (a b : Reg) : List Instr :=
  [.umul a b, .umln a b, .umac a b, .umsb a b, .mul a b, .muln a b, .mac a b, .msub a b, .lpl a, .lph a]

/-- The four instructions of the optional divider, on registers `a` and `b`. -/
def divInstructions (a b : Reg) : List Instr := [.idiv a b, .fdiv, .lq a, .lr a]

end Sys2Proof.Claims
end

