-- ==== Sys2Proof/Certificates/Slice0/Obligations.lean ====
section
/-! DEFINITION. The statements for the provers. None is proved here. -/

open Sys2Proof Sys2Proof.Machine Sys2Proof.Claims

/-! Fetch, decode, encode. -/

/-- R64, R101. When the word at `pc` exists, holds a value the program has not stored, and is an instruction's, the
step is that instruction's own outcome: nothing is added around `exec`, whose meanings hold the common updates. That
the common updates stand inside the meanings is the model's choice (log entry 28), the stored-to premise log entry 5.
-/
def Obligations.StepRunsTheDecodedInstruction : Prop :=
  ∀ (s : State) (w : Word) (i : Instr),
    (fetchAddr s.pc).toNat < s.cfg.memWords → (fetchAddr s.pc).toNat ∉ s.stored →
      Memory.readWord s.mem (fetchAddr s.pc) = some w → decode w = .ok i → step s = exec i s

/-- Words of the spec's own examples, one or more for each family, decode to their instructions. The words are written
out from the spec's encodings; STRA's field is the spec's own choice (D3; log entry 20). -/
def Obligations.SpecWordsDecode : Prop :=
  decode 0x0123 = .ok (.call 0x123) ∧ decode 0x4BFB = .ok (.jmp .nz 0x1FB) ∧ decode 0x5B00 = .ok (.loop .nz) ∧
    decode 0x640F = .ok (.stra 15) ∧ decode 0x680F = .ok (.rep 15) ∧ decode 0x77E1 = .ok (.mvi 1 0x7E) ∧
    decode 0xBB01 = .ok (.out 1 48) ∧ decode 0xC051 = .ok (.inp 1 5) ∧ decode 0xC923 = .ok (.wr 3 2) ∧
    decode 0x8FF1 = .ok (.adi 1 0xFF) ∧ decode 0xB312 = .ok (.cmp 2 1) ∧ decode 0xD642 = .ok (.adc 2 4) ∧
    decode 0xE486 = .ok (.mask 6 8) ∧ decode 0xEF51 = .ok (.shl 1 5) ∧ decode 0xA742 = .ok (.msub 2 4) ∧
    decode 0xA912 = .ok (.idiv 2 1) ∧ decode 0xF302 = .ok (.lr 2)

/-- Decoding the word of a well-formed instruction gives the machine instruction it stands for: no bit is dropped, for
every operand of every one of the 113 rows. That the rows marked `alias_of` are constructors which no word decodes to
is the model's choice (log entry 8). -/
def Obligations.DecodeOfEncodeIsTheMachineInstruction : Prop :=
  ∀ i : Instr, i.wf = true → decode (encode i) = .ok i.canon

/-- A word that decodes is the word of the instruction it decodes to, which is a well-formed machine instruction.
Strict decoding is the spec's own choice (D7, D8; log entry 6). -/
def Obligations.EncodeOfDecodeIsTheWord : Prop :=
  ∀ (w : Word) (i : Instr), decode w = .ok i → encode i = w ∧ i.wf = true ∧ i.canon = i

/-- R81, R82. The decoder rejects exactly the words the spec lists, each by its name. Both lists are the spec's own
choice (D7, D8; log entry 6). -/
def Obligations.DecoderRefusesExactlyTheUnusedWords : Prop :=
  ∀ w : Word,
    (decode w = .error .unusedEncoding ↔
      (0x69 ≤ w.toNat / 256 ∧ w.toNat / 256 ≤ 0x6F) ∨
        w.toNat / 256 ∈ [0xAA, 0xAB, 0xAD, 0xAF, 0xB0, 0xB1, 0xB2, 0xB4, 0xB5, 0xB6] ∨
        (0xCC ≤ w.toNat / 256 ∧ w.toNat / 256 ≤ 0xCF) ∨ 0xF4 ≤ w.toNat / 256 ∨
        (w.toNat / 256 = 0xA8 ∧ w.toNat % 256 ≠ 0) ∨
        (w.toNat / 256 = 0xAE ∧ w.toNat % 256 ≠ 0 ∧ w.toNat % 256 ≠ 0x10) ∨
        (0xF0 ≤ w.toNat / 256 ∧ w.toNat / 256 ≤ 0xF3 ∧ w.toNat / 16 % 16 ≠ 0)) ∧
      (decode w = .error .blankBitsSet ↔
        (w.toNat / 4096 = 5 ∧ w.toNat % 256 ≠ 0) ∨
          (0x60 ≤ w.toNat / 256 ∧ w.toNat / 256 ≤ 0x63 ∧ w.toNat % 1024 ≠ 0) ∨
          (0x64 ≤ w.toNat / 256 ∧ w.toNat / 256 ≤ 0x67 ∧ w.toNat / 16 % 64 ≠ 0) ∨
          (w.toNat / 256 = 0xC8 ∧ w.toNat % 256 ≠ 0))

/-- R290 to R292. An alias, or a named form of a condition, runs as the machine instruction it stands for. That a form
has a meaning of its own is the model's choice (log entry 8). -/
def Obligations.NamedFormsRunAsTheirInstruction : Prop :=
  ∀ (i : Instr) (s : State), i.wf = true → exec i s = exec i.canon s

/-! Reset and the invariant. -/

/-- R36, R341. The values the spec gives for reset: execution begins at address 0, with no repetition pending, no MVI
pair open, the divider idle, and no memory word holding a value. These values are the spec's own choice (D16), memory
without a value before a load log entries 3 and 7. -/
def Obligations.ResetLeavesTheSpecsValues : Prop :=
  State.reset.pc = 0 ∧ State.reset.rep = 0 ∧ State.reset.mviLat = none ∧ State.reset.divWait = 0 ∧
    ∀ a : Word, Memory.readWord State.reset.mem a = none

/-- The state after reset meets the invariant. The values reset leaves where the spec gives none are the model's (log
entries 1 and 2). -/
def Obligations.ResetMeetsTheInvariant : Prop := Inv State.reset

/-- Every step keeps the invariant. The form of memory, the list of stored-to addresses and the latch are the model's
and the spec's own choices (log entries 4, 5, 7, 13). -/
def Obligations.StepKeepsTheInvariant : Prop := ∀ s t : State, Inv s → step s = .next t → Inv t

/-! What each instruction may change, over all instructions. -/

/-- R22. The listed instructions write no general register; every other writes its register A at most. R22 is marked
derived by the spec; for an alias the register is that of its machine instruction (log entry 8). -/
def Obligations.OnlyRegisterAIsWritten : Prop :=
  ∀ (i : Instr) (s t : State), exec i s = .next t →
    (writesNoRegister i.canon = true ∧ destination i.canon = none ∧ KeepsRegs s t) ∨
      (∃ a, writesNoRegister i.canon = false ∧ destination i.canon = some a ∧ KeepsRegsBut a s t)

/-- R25 to R28. Only the listed instructions change V and Z, and only they and CLC, STC, BTST, SHR, SHL change C. That
the families of which the source is silent write no flag is the spec's own choice (D10; log entry 15). -/
def Obligations.FlagsChangeOnlyByTheirInstructions : Prop :=
  ∀ (i : Instr) (s t : State), exec i s = .next t →
    (writesAllFlags i.canon = false → t.flags.v = s.flags.v ∧ t.flags.z = s.flags.z) ∧
      (writesAllFlags i.canon = false → writesCOnly i.canon = false → t.flags.c = s.flags.c)

/-- R20, R31, R56. Memory, the ports, the return-address stack, the accumulator and the divider's registers change by
the instructions R20 names for them only; the parameters change by none. That the parameters are a field nothing
changes is the model's choice (log entry 2). -/
def Obligations.OtherStateChangesOnlyByItsInstructions : Prop :=
  ∀ (i : Instr) (s t : State), exec i s = .next t →
    (writesMemory i.canon = false → KeepsMemory s t) ∧ (accessesPort i.canon = false → KeepsPorts s t) ∧
      (writesRas i.canon = false → KeepsRas s t) ∧ (writesAcc i.canon = false → t.acc = s.acc) ∧
      (writesDivider i.canon = false → KeepsDivider s t) ∧ t.cfg = s.cfg

/-- R10, R270, R109, R130. Every instruction clears the MVI latch unless it is the first MVI of a pair, takes one from
the repeat counter unless it is REP, and one from the divider's counter unless it starts a division. R10 is marked
derived by the spec and rests on its own choices D1 and D21 (log entries 13, 17, 28). -/
def Obligations.EveryInstructionMakesTheCommonUpdates : Prop :=
  ∀ (i : Instr) (s t : State), exec i s = .next t →
    (t.mviLat = none ∨ ∃ a imm, i = .mvi a imm ∧ s.mviLat = none ∧ t.mviLat = some a) ∧
      (t.rep = s.rep - 1 ∨ ∃ n, i.canon = .rep n ∧ t.rep = n.toNat + 2) ∧
      (t.divWait = s.divWait - 1 ∨ ((∃ a b, i = .idiv a b) ∧ t.divWait = 18) ∨ (i = .fdiv ∧ t.divWait = 17))

/-! 16-bit arithmetic. -/

/-- R160, R163, R165, R168. MOV, ADD, MOVC and ADC complete in every state, with the adder's result and flags. What C,
V and Z are is general knowledge and the spec's own choice (D9, D11; log entry 15). -/
def Obligations.AdditionsWriteSumAndFlags : Prop :=
  ∀ (s : State) (a b : Reg),
    (HasWord (.mov a b) (0xD000 + b.toNat * 16 + a.toNat) ∧
      Completes (.mov a b) s
        (WritesReg a (s.getReg b) { c := false, v := false, z := decide (s.getReg b = 0) } s)) ∧
    (HasWord (.add a b) (0xD200 + b.toNat * 16 + a.toNat) ∧
      Completes (.add a b) s
        (WritesReg a (s.getReg a + s.getReg b) (sumFlags (s.getReg a) (s.getReg b) false) s)) ∧
    (HasWord (.movc a b) (0xD400 + b.toNat * 16 + a.toNat) ∧
      Completes (.movc a b) s
        (WritesReg a (s.getReg b + bitWord s.flags.c) (sumFlags 0 (s.getReg b) s.flags.c) s)) ∧
    (HasWord (.adc a b) (0xD600 + b.toNat * 16 + a.toNat) ∧
      Completes (.adc a b) s
        (WritesReg a (s.getReg a + s.getReg b + bitWord s.flags.c)
          (sumFlags (s.getReg a) (s.getReg b) s.flags.c) s))

/-- R161, R162, R164, R166, R167, R169. MVN, NEG, SUB, MVNC, NEGC and SBC complete in every state, with the result and
flags of the subtraction, in either sense of C. The sense of C is a parameter (D2; log entry 16), the flags' meaning
log entry 15. -/
def Obligations.SubtractionsWriteDifferenceAndFlags : Prop :=
  ∀ (s : State) (a b : Reg),
    (HasWord (.mvn a b) (0xD100 + b.toNat * 16 + a.toNat) ∧
      Completes (.mvn a b) s
        (WritesReg a (0 - s.getReg b) (differenceFlags s.cfg.carryIsBorrow 0 (s.getReg b) false) s)) ∧
    (HasWord (.neg a) (0xD100 + 17 * a.toNat) ∧
      Completes (.neg a) s
        (WritesReg a (0 - s.getReg a) (differenceFlags s.cfg.carryIsBorrow 0 (s.getReg a) false) s)) ∧
    (HasWord (.sub a b) (0xD300 + b.toNat * 16 + a.toNat) ∧
      Completes (.sub a b) s
        (WritesReg a (s.getReg a - s.getReg b)
          (differenceFlags s.cfg.carryIsBorrow (s.getReg a) (s.getReg b) false) s)) ∧
    (HasWord (.mvnc a b) (0xD500 + b.toNat * 16 + a.toNat) ∧
      Completes (.mvnc a b) s
        (WritesReg a (0 - s.getReg b - bitWord (borrow s))
          (differenceFlags s.cfg.carryIsBorrow 0 (s.getReg b) (borrow s)) s)) ∧
    (HasWord (.negc a) (0xD500 + 17 * a.toNat) ∧
      Completes (.negc a) s
        (WritesReg a (0 - s.getReg a - bitWord (borrow s))
          (differenceFlags s.cfg.carryIsBorrow 0 (s.getReg a) (borrow s)) s)) ∧
    (HasWord (.sbc a b) (0xD700 + b.toNat * 16 + a.toNat) ∧
      Completes (.sbc a b) s
        (WritesReg a (s.getReg a - s.getReg b - bitWord (borrow s))
          (differenceFlags s.cfg.carryIsBorrow (s.getReg a) (s.getReg b) (borrow s)) s))

/-- R151 to R153. ADI, INC and DEC complete in every state, SBI for every constant in its range; each has the flags of
an addition. SBI with a constant the assembler rejects stops (R305). SBI's range is the spec's own choice (D28; log
entry 8), the flags' meaning log entry 15. -/
def Obligations.ConstantAdditionsWriteSumAndFlags : Prop :=
  ∀ (s : State) (a : Reg),
    (∀ imm : BitVec 8,
      HasWord (.adi a imm) (0x8000 + imm.toNat * 16 + a.toNat) ∧
        Completes (.adi a imm) s
          (WritesReg a (s.getReg a + BitVec.ofInt 16 imm.toInt)
            (sumFlags (s.getReg a) (BitVec.ofInt 16 imm.toInt) false) s)) ∧
    (∀ c : Int, -127 ≤ c → c ≤ 128 →
      HasWord (.sbi a c) (0x8000 + (-c % 256).toNat * 16 + a.toNat) ∧
        Completes (.sbi a c) s
          (WritesReg a (s.getReg a - BitVec.ofInt 16 c)
            (sumFlags (s.getReg a) (BitVec.ofInt 16 (-c)) false) s)) ∧
    (∀ c : Int, c < -127 ∨ 128 < c → exec (.sbi a c) s = .refused .operandOutOfRange) ∧
    (HasWord (.inc a) (0x8010 + a.toNat) ∧
      Completes (.inc a) s (WritesReg a (s.getReg a + 1) (sumFlags (s.getReg a) 1 false) s)) ∧
    (HasWord (.dec a) (0x8FF0 + a.toNat) ∧
      Completes (.dec a) s (WritesReg a (s.getReg a - 1) (sumFlags (s.getReg a) 0xFFFF false) s))

/-- R154, R155, R158, R159. CPI, CPZ, CMP and CMPC complete in every state and write the flags only. The sense of C is
a parameter (D2; log entry 16), the flags' meaning and C18 log entry 15. -/
def Obligations.ComparisonsWriteFlagsOnly : Prop :=
  ∀ (s : State) (a b : Reg) (imm : BitVec 8),
    (HasWord (.cpi a imm) (0x9000 + imm.toNat * 16 + a.toNat) ∧
      Completes (.cpi a imm) s
        (WritesFlags (differenceFlags s.cfg.carryIsBorrow (s.getReg a) (BitVec.ofInt 16 imm.toInt) false) s)) ∧
    (HasWord (.cpz a) (0x9000 + a.toNat) ∧
      Completes (.cpz a) s
        (WritesFlags { c := !s.cfg.carryIsBorrow, v := false, z := decide (s.getReg a = 0) } s)) ∧
    (HasWord (.cmp a b) (0xB300 + b.toNat * 16 + a.toNat) ∧
      Completes (.cmp a b) s
        (WritesFlags (differenceFlags s.cfg.carryIsBorrow (s.getReg a) (s.getReg b) false) s)) ∧
    (HasWord (.cmpc a b) (0xB700 + b.toNat * 16 + a.toNat) ∧
      Completes (.cmpc a b) s
        (WritesFlags (differenceFlags s.cfg.carryIsBorrow (s.getReg a) (s.getReg b) (borrow s)) s))

/-- R156, R157, R210. CLC, STC and BTST complete in every state and write C only. -/
def Obligations.CarryFormsWriteCarryOnly : Prop :=
  ∀ (s : State) (a : Reg) (k : BitVec 4),
    (HasWord .clc 0xAE00 ∧ Completes .clc s (SetsFlags { s.flags with c := false } s)) ∧
    (HasWord .stc 0xAE10 ∧ Completes .stc s (SetsFlags { s.flags with c := true } s)) ∧
    (HasWord (.btst a k) (0xAC00 + k.toNat * 16 + a.toNat) ∧
      Completes (.btst a k) s (SetsFlags { s.flags with c := (s.getReg a).getLsbD k.toNat } s))

/-- R181. The carry-propagating pairs work on 32 bits, in either sense of C: ADD then ADC, SUB then SBC. The low
destination is neither register of a high word, because the first instruction would change what the second reads. R181
is marked derived by the spec; the flags' meaning is log entries 15 and 16. -/
def Obligations.PairsAddAndSubtract32Bits : Prop :=
  ∀ (s : State) (lo hi lo' hi' : Reg), lo ≠ hi → lo ≠ hi' →
    (∃ t u, exec (.add lo lo') s = .next t ∧ exec (.adc hi hi') t = .next u ∧
      pair (u.getReg hi) (u.getReg lo) =
        (pair (s.getReg hi) (s.getReg lo) + pair (s.getReg hi') (s.getReg lo')) % 2 ^ 32 ∧
      u.flags.c = decide (2 ^ 32 ≤ pair (s.getReg hi) (s.getReg lo) + pair (s.getReg hi') (s.getReg lo'))) ∧
    (∃ t u, exec (.sub lo lo') s = .next t ∧ exec (.sbc hi hi') t = .next u ∧
      (pair (u.getReg hi) (u.getReg lo) : Int) =
        ((pair (s.getReg hi) (s.getReg lo) : Int) - pair (s.getReg hi') (s.getReg lo')) % 2 ^ 32 ∧
      u.flags.c =
        (decide (pair (s.getReg hi) (s.getReg lo) < pair (s.getReg hi') (s.getReg lo')) == s.cfg.carryIsBorrow))

/-- R181, R167. CMP then CMPC leaves the C of the 32-bit comparison, NEG then NEGC negates 32 bits, in either sense of
C. R181 is marked derived by the spec; the flags' meaning is log entries 15 and 16. -/
def Obligations.PairsCompareAndNegate32Bits : Prop :=
  ∀ (s : State) (lo hi lo' hi' : Reg),
    (∃ t u, exec (.cmp lo lo') s = .next t ∧ exec (.cmpc hi hi') t = .next u ∧
      u.flags.c =
        (decide (pair (s.getReg hi) (s.getReg lo) < pair (s.getReg hi') (s.getReg lo')) == s.cfg.carryIsBorrow)) ∧
    (lo ≠ hi →
      ∃ t u, exec (.neg lo) s = .next t ∧ exec (.negc hi) t = .next u ∧
        (pair (u.getReg hi) (u.getReg lo) : Int) = (-(pair (s.getReg hi) (s.getReg lo) : Int)) % 2 ^ 32)

/-! 8-bit and 4-bit arithmetic. -/

/-- R170 to R174. MOV8, MVN8, NEG8, ADD8 and SUB8 complete in every state: the lower byte modulo 2^8, the upper byte
kept, no flag. -/
def Obligations.ByteFormsChangeTheLowByte : Prop :=
  ∀ (s : State) (a b : Reg),
    (HasWord (.mov8 a b) (0xD800 + b.toNat * 16 + a.toNat) ∧
      Completes (.mov8 a b) s
        (SetsReg a (BitVec.ofNat 16 ((s.getReg a).toNat / 256 * 256 + (s.getReg b).toNat % 256)) s.flags s)) ∧
    (HasWord (.mvn8 a b) (0xD900 + b.toNat * 16 + a.toNat) ∧
      Completes (.mvn8 a b) s
        (SetsReg a
          (BitVec.ofNat 16 ((s.getReg a).toNat / 256 * 256 + (256 - (s.getReg b).toNat % 256) % 256)) s.flags s)) ∧
    (HasWord (.neg8 a) (0xD900 + 17 * a.toNat) ∧
      Completes (.neg8 a) s
        (SetsReg a
          (BitVec.ofNat 16 ((s.getReg a).toNat / 256 * 256 + (256 - (s.getReg a).toNat % 256) % 256)) s.flags s)) ∧
    (HasWord (.add8 a b) (0xDA00 + b.toNat * 16 + a.toNat) ∧
      Completes (.add8 a b) s
        (SetsReg a
          (BitVec.ofNat 16
            ((s.getReg a).toNat / 256 * 256 + ((s.getReg a).toNat % 256 + (s.getReg b).toNat % 256) % 256))
          s.flags s)) ∧
    (HasWord (.sub8 a b) (0xDB00 + b.toNat * 16 + a.toNat) ∧
      Completes (.sub8 a b) s
        (SetsReg a
          (BitVec.ofNat 16
            ((s.getReg a).toNat / 256 * 256 + ((s.getReg a).toNat % 256 + 256 - (s.getReg b).toNat % 256) % 256))
          s.flags s))

/-- R175 to R179. MOV4, MVN4, NEG4, ADD4 and SUB4 complete in every state: the low 4 bits modulo 2^4, the upper 12 bits
kept, no flag. That the upper 12 bits are kept is the spec's own reading (R175), NEG4 its own inference (R177; log
entry 8). -/
def Obligations.NibbleFormsChangeTheLowNibble : Prop :=
  ∀ (s : State) (a b : Reg),
    (HasWord (.mov4 a b) (0xDC00 + b.toNat * 16 + a.toNat) ∧
      Completes (.mov4 a b) s
        (WritesReg a (BitVec.ofNat 16 ((s.getReg a).toNat / 16 * 16 + (s.getReg b).toNat % 16)) s.flags s)) ∧
    (HasWord (.mvn4 a b) (0xDD00 + b.toNat * 16 + a.toNat) ∧
      Completes (.mvn4 a b) s
        (WritesReg a
          (BitVec.ofNat 16 ((s.getReg a).toNat / 16 * 16 + (16 - (s.getReg b).toNat % 16) % 16)) s.flags s)) ∧
    (HasWord (.neg4 a) (0xDD00 + 17 * a.toNat) ∧
      Completes (.neg4 a) s
        (WritesReg a
          (BitVec.ofNat 16 ((s.getReg a).toNat / 16 * 16 + (16 - (s.getReg a).toNat % 16) % 16)) s.flags s)) ∧
    (HasWord (.add4 a b) (0xDE00 + b.toNat * 16 + a.toNat) ∧
      Completes (.add4 a b) s
        (WritesReg a
          (BitVec.ofNat 16
            ((s.getReg a).toNat / 16 * 16 + ((s.getReg a).toNat % 16 + (s.getReg b).toNat % 16) % 16))
          s.flags s)) ∧
    (HasWord (.sub4 a b) (0xDF00 + b.toNat * 16 + a.toNat) ∧
      Completes (.sub4 a b) s
        (WritesReg a
          (BitVec.ofNat 16
            ((s.getReg a).toNat / 16 * 16 + ((s.getReg a).toNat % 16 + 16 - (s.getReg b).toNat % 16) % 16))
          s.flags s))

/-! Logic and bits. -/

/-- R191 to R194. NOT, AND, OR and XOR complete in every state and work bit by bit, no flag. That no flag is written is
the spec's own choice (D10; log entry 15). -/
def Obligations.LogicFormsWorkBitByBit : Prop :=
  ∀ (s : State) (a b : Reg),
    (HasWord (.not a b) (0xE000 + b.toNat * 16 + a.toNat) ∧
      Completes (.not a b) s fun t =>
        (∀ n, n < 16 → (t.getReg a).getLsbD n = !(s.getReg b).getLsbD n) ∧
          WritesReg a (t.getReg a) s.flags s t) ∧
    (HasWord (.and a b) (0xE100 + b.toNat * 16 + a.toNat) ∧
      Completes (.and a b) s fun t =>
        (∀ n, n < 16 → (t.getReg a).getLsbD n = ((s.getReg a).getLsbD n && (s.getReg b).getLsbD n)) ∧
          WritesReg a (t.getReg a) s.flags s t) ∧
    (HasWord (.or a b) (0xE200 + b.toNat * 16 + a.toNat) ∧
      Completes (.or a b) s fun t =>
        (∀ n, n < 16 → (t.getReg a).getLsbD n = ((s.getReg a).getLsbD n || (s.getReg b).getLsbD n)) ∧
          WritesReg a (t.getReg a) s.flags s t) ∧
    (HasWord (.xor a b) (0xE300 + b.toNat * 16 + a.toNat) ∧
      Completes (.xor a b) s fun t =>
        (∀ n, n < 16 → (t.getReg a).getLsbD n = ((s.getReg a).getLsbD n != (s.getReg b).getLsbD n)) ∧
          WritesReg a (t.getReg a) s.flags s t)

/-- R195 to R198. MASK, RST, SET and INV complete in every state, each with its bits of register A, no flag. That no
flag is written is the spec's own choice (D10; log entry 15). -/
def Obligations.BitFormsChangeTheirBits : Prop :=
  ∀ (s : State) (a : Reg) (k : BitVec 4),
    (HasWord (.mask a k) (0xE400 + k.toNat * 16 + a.toNat) ∧
      Completes (.mask a k) s fun t =>
        (∀ n, n < 16 → (t.getReg a).getLsbD n = (decide (n < k.toNat) && (s.getReg a).getLsbD n)) ∧
          WritesReg a (t.getReg a) s.flags s t) ∧
    (HasWord (.rst a k) (0xE500 + k.toNat * 16 + a.toNat) ∧
      Completes (.rst a k) s fun t =>
        (∀ n, n < 16 → (t.getReg a).getLsbD n = if n = k.toNat then false else (s.getReg a).getLsbD n) ∧
          WritesReg a (t.getReg a) s.flags s t) ∧
    (HasWord (.setb a k) (0xE600 + k.toNat * 16 + a.toNat) ∧
      Completes (.setb a k) s fun t =>
        (∀ n, n < 16 → (t.getReg a).getLsbD n = if n = k.toNat then true else (s.getReg a).getLsbD n) ∧
          WritesReg a (t.getReg a) s.flags s t) ∧
    (HasWord (.inv a k) (0xE700 + k.toNat * 16 + a.toNat) ∧
      Completes (.inv a k) s fun t =>
        (∀ n, n < 16 →
            (t.getReg a).getLsbD n = if n = k.toNat then !(s.getReg a).getLsbD n else (s.getReg a).getLsbD n) ∧
          WritesReg a (t.getReg a) s.flags s t)

/-! Sign extension, insert, reverse, shift. -/

/-- R212 to R215. MLLS and SXL extend the sign of the low byte, MHLS and SXH shift arithmetically right by eight; they
complete in every state, no flag. That no flag is written is the spec's own choice (D10; log entry 15). -/
def Obligations.SignExtensionsFillTheWord : Prop :=
  ∀ (s : State) (a b : Reg),
    (HasWord (.mlls a b) (0xE800 + b.toNat * 16 + a.toNat) ∧
      Completes (.mlls a b) s
        (WritesReg a (BitVec.ofInt 16 ((((s.getReg b).toNat % 256 + 128) % 256 : Nat) - 128)) s.flags s)) ∧
    (HasWord (.sxl a) (0xE800 + 17 * a.toNat) ∧
      Completes (.sxl a) s
        (WritesReg a (BitVec.ofInt 16 ((((s.getReg a).toNat % 256 + 128) % 256 : Nat) - 128)) s.flags s)) ∧
    (HasWord (.mhls a b) (0xE900 + b.toNat * 16 + a.toNat) ∧
      Completes (.mhls a b) s (WritesReg a (BitVec.ofInt 16 ((s.getReg b).toInt / 256)) s.flags s)) ∧
    (HasWord (.sxh a) (0xE900 + 17 * a.toNat) ∧
      Completes (.sxh a) s (WritesReg a (BitVec.ofInt 16 ((s.getReg a).toInt / 256)) s.flags s))

/-- R216 to R221. INS4, INS8 and IN12 insert the low bits of register B above the shifted register A; ROR4, SWAP and
ROL4 rotate; they complete in every state, no flag. That no flag is written is the spec's own choice (D10; log entry
15). -/
def Obligations.InsertsShiftInTheLowBits : Prop :=
  ∀ (s : State) (a b : Reg),
    (HasWord (.ins4 a b) (0xEA00 + b.toNat * 16 + a.toNat) ∧
      Completes (.ins4 a b) s
        (WritesReg a (BitVec.ofNat 16 ((s.getReg b).toNat % 16 * 4096 + (s.getReg a).toNat / 16)) s.flags s)) ∧
    (HasWord (.ins8 a b) (0xEB00 + b.toNat * 16 + a.toNat) ∧
      Completes (.ins8 a b) s
        (WritesReg a (BitVec.ofNat 16 ((s.getReg b).toNat % 256 * 256 + (s.getReg a).toNat / 256)) s.flags s)) ∧
    (HasWord (.in12 a b) (0xEC00 + b.toNat * 16 + a.toNat) ∧
      Completes (.in12 a b) s
        (WritesReg a (BitVec.ofNat 16 ((s.getReg b).toNat % 4096 * 16 + (s.getReg a).toNat / 4096)) s.flags s)) ∧
    (HasWord (.ror4 a) (0xEA00 + 17 * a.toNat) ∧
      Completes (.ror4 a) s (WritesReg a ((s.getReg a).rotateRight 4) s.flags s)) ∧
    (HasWord (.swap a) (0xEB00 + 17 * a.toNat) ∧
      Completes (.swap a) s (WritesReg a ((s.getReg a).rotateRight 8) s.flags s)) ∧
    (HasWord (.rol4 a) (0xEC00 + 17 * a.toNat) ∧
      Completes (.rol4 a) s (WritesReg a ((s.getReg a).rotateLeft 4) s.flags s))

/-- R222. REV completes in every state: bit `n` of the result is bit `15 - n` of register B, no flag. That no flag is
written is the spec's own choice (D10; log entry 15). -/
def Obligations.ReverseMirrorsTheBits : Prop :=
  ∀ (s : State) (a b : Reg),
    HasWord (.rev a b) (0xED00 + b.toNat * 16 + a.toNat) ∧
      Completes (.rev a b) s fun t =>
        (∀ n, n < 16 → (t.getReg a).getLsbD n = (s.getReg b).getLsbD (15 - n)) ∧
          WritesReg a (t.getReg a) s.flags s t

/-- R211, R223, R224. SHR and SHL complete in every state with every control code: one place, the bit of Figure 8
shifted in, the bit of Figure 8 in C, V and Z unchanged. That Figure 8 speaks of the bits of the old register, and that
its link bit is the old C, is the spec's own inference (R211 is marked derived; N31, N32; log entry 29); V and Z after
a shift are log entry 15 (U19). -/
def Obligations.ShiftsFollowFigure8 : Prop :=
  ∀ (s : State) (a : Reg) (k : BitVec 4),
    (HasWord (.shr a k) (0xEE00 + k.toNat * 16 + a.toNat) ∧
      Completes (.shr a k) s fun t =>
        (∀ n, n < 15 → (t.getReg a).getLsbD n = (s.getReg a).getLsbD (n + 1)) ∧
          (t.getReg a).getLsbD 15 = figure8In k (s.getReg a) s.flags.c ∧
          SetsReg a (t.getReg a) { s.flags with c := figure8Carry k (s.getReg a) } s t) ∧
    (HasWord (.shl a k) (0xEF00 + k.toNat * 16 + a.toNat) ∧
      Completes (.shl a k) s fun t =>
        (∀ n, n < 15 → (t.getReg a).getLsbD (n + 1) = (s.getReg a).getLsbD n) ∧
          (t.getReg a).getLsbD 0 = figure8In k (s.getReg a) s.flags.c ∧
          SetsReg a (t.getReg a) { s.flags with c := figure8Carry k (s.getReg a) } s t)

/-- R225 to R231. The named shifts complete in every state; C is the bit shifted out. -/
def Obligations.NamedShiftsShiftOnePlace : Prop :=
  ∀ (s : State) (a : Reg),
    (HasWord (.ror a) (0xEE00 + a.toNat) ∧
      Completes (.ror a) s
        (SetsReg a ((s.getReg a).rotateRight 1) { s.flags with c := (s.getReg a).getLsbD 0 } s)) ∧
    (HasWord (.rol a) (0xEF50 + a.toNat) ∧
      Completes (.rol a) s
        (SetsReg a ((s.getReg a).rotateLeft 1) { s.flags with c := (s.getReg a).getLsbD 15 } s)) ∧
    (HasWord (.rrc a) (0xEE80 + a.toNat) ∧
      Completes (.rrc a) s
        (SetsReg a (BitVec.ofNat 16 (s.flags.c.toNat * 32768 + (s.getReg a).toNat / 2))
          { s.flags with c := (s.getReg a).getLsbD 0 } s)) ∧
    (HasWord (.rlc a) (0xEF90 + a.toNat) ∧
      Completes (.rlc a) s
        (SetsReg a (BitVec.ofNat 16 ((s.getReg a).toNat * 2 + s.flags.c.toNat))
          { s.flags with c := (s.getReg a).getLsbD 15 } s)) ∧
    (HasWord (.lsr a) (0xEEC0 + a.toNat) ∧
      Completes (.lsr a) s
        (SetsReg a (s.getReg a >>> 1) { s.flags with c := (s.getReg a).getLsbD 0 } s)) ∧
    (HasWord (.lsl a) (0xEFD0 + a.toNat) ∧
      Completes (.lsl a) s
        (SetsReg a (s.getReg a <<< 1) { s.flags with c := (s.getReg a).getLsbD 15 } s)) ∧
    (HasWord (.asr a) (0xEE40 + a.toNat) ∧
      Completes (.asr a) s
        (SetsReg a ((s.getReg a).sshiftRight 1) { s.flags with c := (s.getReg a).getLsbD 0 } s))

/-- R233. LSL then RLC shifts 32 bits left, LSR then RRC shifts 32 bits right; C is the bit shifted out. R233 is marked
derived by the spec. -/
def Obligations.TwoWordShiftsShift32Bits : Prop :=
  ∀ (s : State) (hi lo : Reg), hi ≠ lo →
    (∃ t u, exec (.lsl lo) s = .next t ∧ exec (.rlc hi) t = .next u ∧
      pair (u.getReg hi) (u.getReg lo) = pair (s.getReg hi) (s.getReg lo) * 2 % 2 ^ 32 ∧
      u.flags.c = decide (2 ^ 31 ≤ pair (s.getReg hi) (s.getReg lo))) ∧
    (∃ t u, exec (.lsr hi) s = .next t ∧ exec (.rrc lo) t = .next u ∧
      pair (u.getReg hi) (u.getReg lo) = pair (s.getReg hi) (s.getReg lo) / 2 ∧
      u.flags.c = decide (pair (s.getReg hi) (s.getReg lo) % 2 = 1))

/-! The multiply-accumulate unit. -/

/-- R251 to R254. The unsigned multiplies complete wherever the unit is present, modulo 2^32, no flag, no register.
That the accumulator wraps is the spec's own choice (D29), no wait C13, no flag D10 (log entries 15, 21). -/
def Obligations.UnsignedMultipliesWriteTheAccumulator : Prop :=
  ∀ (s : State) (a b : Reg), s.cfg.hasMac = true →
    (HasWord (.umul a b) (0xA000 + b.toNat * 16 + a.toNat) ∧
      Completes (.umul a b) s (WritesAcc ((s.getReg a).toNat * (s.getReg b).toNat) s)) ∧
    (HasWord (.umln a b) (0xA100 + b.toNat * 16 + a.toNat) ∧
      Completes (.umln a b) s (WritesAcc (0 - (s.getReg a).toNat * (s.getReg b).toNat) s)) ∧
    (HasWord (.umac a b) (0xA200 + b.toNat * 16 + a.toNat) ∧
      Completes (.umac a b) s (WritesAcc (s.acc.toNat + (s.getReg a).toNat * (s.getReg b).toNat) s)) ∧
    (HasWord (.umsb a b) (0xA300 + b.toNat * 16 + a.toNat) ∧
      Completes (.umsb a b) s (WritesAcc (s.acc.toNat - (s.getReg a).toNat * (s.getReg b).toNat) s))

/-- R255 to R258. The signed multiplies complete wherever the unit is present, modulo 2^32, no flag, no register. That
the accumulator wraps is the spec's own choice (D29), no wait C13, no flag D10 (log entries 15, 21). -/
def Obligations.SignedMultipliesWriteTheAccumulator : Prop :=
  ∀ (s : State) (a b : Reg), s.cfg.hasMac = true →
    (HasWord (.mul a b) (0xA400 + b.toNat * 16 + a.toNat) ∧
      Completes (.mul a b) s (WritesAcc ((s.getReg a).toInt * (s.getReg b).toInt) s)) ∧
    (HasWord (.muln a b) (0xA500 + b.toNat * 16 + a.toNat) ∧
      Completes (.muln a b) s (WritesAcc (0 - (s.getReg a).toInt * (s.getReg b).toInt) s)) ∧
    (HasWord (.mac a b) (0xA600 + b.toNat * 16 + a.toNat) ∧
      Completes (.mac a b) s (WritesAcc (s.acc.toInt + (s.getReg a).toInt * (s.getReg b).toInt) s)) ∧
    (HasWord (.msub a b) (0xA700 + b.toNat * 16 + a.toNat) ∧
      Completes (.msub a b) s (WritesAcc (s.acc.toInt - (s.getReg a).toInt * (s.getReg b).toInt) s))

/-- R259, R260. LPL and LPH complete wherever the unit is present and copy the accumulator's halves, no flag. That no
flag is written is the spec's own choice (D10; log entry 15). -/
def Obligations.AccumulatorReadsCopyItsHalves : Prop :=
  ∀ (s : State) (a : Reg), s.cfg.hasMac = true →
    (HasWord (.lpl a) (0xF000 + a.toNat) ∧
      Completes (.lpl a) s (WritesReg a (BitVec.ofNat 16 (s.acc.toNat % 65536)) s.flags s)) ∧
    (HasWord (.lph a) (0xF100 + a.toNat) ∧
      Completes (.lph a) s (WritesReg a (BitVec.ofNat 16 (s.acc.toNat / 65536)) s.flags s))

/-- R2, D22. Every instruction of an absent unit is refused. That they are refused is the spec's own choice (D22; log
entry 23). -/
def Obligations.AbsentUnitsAreRefused : Prop :=
  ∀ (s : State) (a b : Reg),
    (s.cfg.hasMac = false → ∀ i ∈ macInstructions a b, exec i s = .refused .noMacUnit) ∧
      (s.cfg.hasDiv = false → ∀ i ∈ divInstructions a b, exec i s = .refused .noDivUnit)

/-! The divider. -/

/-- R271. IDIV by a divisor that is not zero completes wherever the divider is present and idle. The wait is the spec's
own choice (D21; log entry 17), no flag D10 (log entry 15). -/
def Obligations.IdivLeavesQuotientAndRemainder : Prop :=
  ∀ (s : State) (a b : Reg), s.cfg.hasDiv = true → s.divWait = 0 → s.getReg b ≠ 0 →
    HasWord (.idiv a b) (0xA900 + b.toNat * 16 + a.toNat) ∧
      Completes (.idiv a b) s fun t =>
        t.divq.toNat = (s.getReg a).toNat / (s.getReg b).toNat ∧
          t.divr.toNat = (s.getReg a).toNat % (s.getReg b).toNat ∧ t.divd = s.getReg b ∧ t.drawn = s.drawn ∧
          StartsDivision 18 s t

/-- R276. A division by zero completes too: the unit is busy as long as ever, nothing else is affected; quotient and
remainder are free values, and nothing is said of them. This is the spec's own choice (D20; log entry 9). -/
def Obligations.DivisionByZeroCompletes : Prop :=
  ∀ (s : State) (a b : Reg), s.cfg.hasDiv = true → s.divWait = 0 →
    (s.getReg b = 0 →
      Completes (.idiv a b) s fun t => t.divd = 0 ∧ t.drawn = s.drawn + 1 ∧ StartsDivision 18 s t) ∧
    (s.divd = 0 → Completes .fdiv s fun t => t.divd = 0 ∧ t.drawn = s.drawn + 1 ∧ StartsDivision 17 s t)

/-- R272. FDIV completes wherever the divider is present and idle and holds a remainder below its divisor, with the
first 16 places of the fraction; that the remainder register then holds the continued remainder is the spec's own
choice (D25). So is the wait (D21; log entry 17). -/
def Obligations.FdivLeavesTheFraction : Prop :=
  ∀ s : State, s.cfg.hasDiv = true → s.divWait = 0 → s.divr.toNat < s.divd.toNat →
    HasWord .fdiv 0xA800 ∧
      Completes .fdiv s fun t =>
        t.divq.toNat = s.divr.toNat * 65536 / s.divd.toNat ∧ t.divr.toNat = s.divr.toNat * 65536 % s.divd.toNat ∧
          t.divd = s.divd ∧ t.drawn = s.drawn ∧ StartsDivision 17 s t

/-- R271, R272. A division issued while the divider works is refused. When the divider is idle is the spec's own choice
(D21; log entry 17). -/
def Obligations.DivisionWhileBusyIsRefused : Prop :=
  ∀ (s : State) (a b : Reg), s.cfg.hasDiv = true → s.divWait ≠ 0 →
    exec (.idiv a b) s = .refused .divisionWhileBusy ∧ exec .fdiv s = .refused .divisionWhileBusy

/-- R273, R274. LQ and LR complete when the divider is idle and copy its registers, no flag. When the divider is idle
is the spec's own choice (D21; log entry 17), no flag D10 (log entry 15). -/
def Obligations.DividerReadsCopyItsRegisters : Prop :=
  ∀ (s : State) (a : Reg), s.cfg.hasDiv = true → s.divWait = 0 →
    (HasWord (.lq a) (0xF200 + a.toNat) ∧ Completes (.lq a) s (WritesReg a s.divq s.flags s)) ∧
      (HasWord (.lr a) (0xF300 + a.toNat) ∧ Completes (.lr a) s (WritesReg a s.divr s.flags s))

/-- R273 to R275. LQ and LR complete while the divider works, too: LR reads 1 in bit 15, the rest is free and nothing
is said of it. This is the spec's own choice (D25; log entry 10). -/
def Obligations.DividerReadsWhileBusyComplete : Prop :=
  ∀ (s : State) (a : Reg), s.cfg.hasDiv = true → s.divWait ≠ 0 →
    ∀ i ∈ [Instr.lq a, Instr.lr a],
      Completes i s fun t =>
        (i = .lr a → (t.getReg a).getLsbD 15 = true) ∧ KeepsRegsBut a s t ∧ t.flags = s.flags ∧ Advances s t ∧
          KeepsMemory s t ∧ KeepsRas s t ∧ t.acc = s.acc ∧ KeepsDivider s t ∧ KeepsPorts s t ∧
          t.drawn = s.drawn + 1 ∧ t.cfg = s.cfg

/-- R278. The quotient of IDIV followed by the quotient of FDIV is the 32-bit quotient `a * 2^16 / b`, whatever ran
between, if the divider's registers stood still and it is idle again. R278 is marked derived by the spec and rests on
its own choices D21 and D25 (log entry 17). -/
def Obligations.IdivThenFdivDivides32Bits : Prop :=
  ∀ (s t u : State) (a b : Reg), s.getReg b ≠ 0 → exec (.idiv a b) s = .next t → u.divr = t.divr → u.divd = t.divd →
    u.divWait = 0 → u.cfg.hasDiv = true →
    ∃ v, exec .fdiv u = .next v ∧
      t.divq.toNat * 65536 + v.divq.toNat = (s.getReg a).toNat * 65536 / (s.getReg b).toNat ∧
      v.divr.toNat = (s.getReg a).toNat * 65536 % (s.getReg b).toNat

/-! Program flow. -/

/-- R102, R107, R108. CALL, MARK and STRA complete with no repetition pending, and push on the return-address stack.
The wraps and STRA's field are the spec's own choices (D3, D5, D6; log entries 18 to 20). -/
def Obligations.PushingInstructionsPush : Prop :=
  ∀ (s : State) (target : ProgAddr) (a : Reg), s.rep = 0 →
    (HasWord (.call target) target.toNat ∧
      Completes (.call target) s
        (Transfers target (s.ras.set (s.rsp + 1).toNat (s.pc + 1)) (s.rsp + 1) s)) ∧
    (HasWord .mark 0x6000 ∧
      Completes .mark s
        (Transfers (s.pc + 1) (s.ras.set (s.rsp + 1).toNat (s.pc + 1)) (s.rsp + 1) s)) ∧
    (HasWord (.stra a) (0x6400 + a.toNat) ∧
      Completes (.stra a) s
        (Transfers (s.pc + 1)
          (s.ras.set (s.rsp + 1).toNat (BitVec.ofNat 14 (s.getReg a).toNat)) (s.rsp + 1) s))

/-- R100, R103. JMP and its eight named forms: with the condition true they complete with no repetition pending and go
to the target modulo 2^14; with it false they complete always and go on. The displacement's sign and origin and the
wrap are the spec's own choices (D4, D5; log entries 18, 20). -/
def Obligations.JumpsFollowTheirCondition : Prop :=
  ∀ (s : State) (cc : Cond) (rel : BitVec 9), ∀ i ∈ [Instr.jmp cc rel, jumpName cc rel],
    HasWord i (0x4000 + cc.code * 0x200 + rel.toNat) ∧
      (condTrue cc s.flags → s.rep = 0 →
        Completes i s (Transfers (BitVec.ofInt 14 (s.pc.toNat + 1 + rel.toInt)) s.ras s.rsp s)) ∧
      (¬condTrue cc s.flags → Completes i s (Transfers (Claims.next s) s.ras s.rsp s))

/-- R100, R105. RET and its eight named forms. The pointer's wrap is the spec's own choice (D6; log entry 19). -/
def Obligations.ReturnsFollowTheirCondition : Prop :=
  ∀ (s : State) (cc : Cond), ∀ i ∈ [Instr.ret cc, returnName cc],
    HasWord i (0x5000 + cc.code * 0x200) ∧
      (condTrue cc s.flags → s.rep = 0 →
        Completes i s (Transfers s.ras[s.rsp.toNat] s.ras (s.rsp - 1) s)) ∧
      (¬condTrue cc s.flags → Completes i s (Transfers (Claims.next s) s.ras s.rsp s))

/-- R100, R106. LOOP and its eight named forms, with no repetition pending. LOOP-Never dropping an entry is the spec's
resolution C19 (log entry 22), the wrap D6 (log entry 19). -/
def Obligations.LoopsFollowTheirCondition : Prop :=
  ∀ (s : State) (cc : Cond), s.rep = 0 → ∀ i ∈ [Instr.loop cc, loopName cc],
    HasWord i (0x5100 + cc.code * 0x200) ∧
      (condTrue cc s.flags → Completes i s (Transfers s.ras[s.rsp.toNat] s.ras s.rsp s)) ∧
      (¬condTrue cc s.flags → Completes i s (Transfers (s.pc + 1) s.ras (s.rsp - 1) s))

/-- R109, R292. REP and RPT complete with no repetition pending and owe `count8 + 2` executions. The counter is the
spec's own inference (R34; log entry 14). -/
def Obligations.RepOwesTheNextInstruction : Prop :=
  ∀ (s : State) (count : BitVec 8), s.rep = 0 → ∀ i ∈ [Instr.rep count, Instr.rpt count],
    HasWord i (0x6800 + count.toNat) ∧
      Completes i s fun t =>
        t.pc = s.pc + 1 ∧ t.rep = count.toNat + 2 ∧ t.mviLat = none ∧ t.divWait = s.divWait - 1 ∧
          t.flags = s.flags ∧ KeepsRegs s t ∧ KeepsRest s t

/-- R83, R111, R138. NOP, RET with condition Never and the no-access form complete in every state and only advance.
Which word NOP is, and that 0xC800 accesses nothing, are the spec's own choices (D18; log entries 20, 22). -/
def Obligations.NoOperationsOnlyAdvance : Prop :=
  ∀ (s : State) (rel : BitVec 9), HasWord .noAccess 0xC800 ∧
    ∀ i ∈ [Instr.nop rel, Instr.jmp .never rel, Instr.ret .never, Instr.retNever, Instr.noAccess],
      Completes i s (WritesFlags s.flags s)

/-- R110. What is refused while a repetition is pending. This is the spec's own choice (D23; log entry 14). -/
def Obligations.RefusedWhileRepeating : Prop :=
  ∀ (s : State) (cc : Cond) (target : ProgAddr) (rel : BitVec 9) (a : Reg) (n : BitVec 8), s.rep ≠ 0 →
    (∀ i ∈ [Instr.call target, Instr.loop cc, Instr.mark, Instr.stra a, Instr.rep n, Instr.mvi a n],
      exec i s = .refused .undefinedUnderRep) ∧
    (condTrue cc s.flags →
      exec (.jmp cc rel) s = .refused .undefinedUnderRep ∧ exec (.ret cc) s = .refused .undefinedUnderRep)

/-- R101, R109. While `n` executions are owed, `m` executions of any instruction that complete leave `n - m` owed; the
program counter stays at the instruction until the last, which goes on. R101 is marked derived by the spec; what is
refused under REP is log entry 14, the wrap of `pc` log entry 18. -/
def Obligations.RepetitionHoldsThePcThenMovesOn : Prop :=
  ∀ (m : Nat) (i : Instr) (s t : State), s.rep ≠ 0 → m ≤ s.rep → execTimes m i s = .next t →
    t.rep = s.rep - m ∧ (m < s.rep → t.pc = s.pc) ∧ (m = s.rep → t.pc = s.pc + 1)

/-- R233. `n` executions of LSL shift the register left by `n` places, and `n` of LSR right, whatever `rep` owes. R233
is marked derived by the spec (log entry 14). -/
def Obligations.RepeatedShiftsShiftByTheCount : Prop :=
  ∀ (n : Nat) (s : State) (a : Reg),
    (∃ t, execTimes n (.lsl a) s = .next t ∧ t.getReg a = s.getReg a <<< n ∧ KeepsRegsBut a s t) ∧
      (∃ t, execTimes n (.lsr a) s = .next t ∧ t.getReg a = s.getReg a >>> n ∧ KeepsRegsBut a s t)

/-- R29. However many addresses were pushed, up to sixteen pops answer the last of them, last in first out, and move
the pointer back. The wrap is the spec's own choice (D6; log entry 19). -/
def Obligations.PopsAnswerTheLastPushes : Prop :=
  ∀ (s : State) (vs : List ProgAddr) (k : Nat), k ≤ vs.length → k ≤ 16 →
    (popAll k (pushAll vs s)).1 = vs.reverse.take k ∧
      (popAll k (pushAll vs s)).2.rsp = s.rsp + BitVec.ofNat 4 vs.length - BitVec.ofNat 4 k

/-! Immediate data, ports, memory. -/

/-- R130. MVI with no repetition pending: a first MVI sign-extends and opens the pair, a second to the same register
replaces the upper byte and closes it, a second to another register is refused. How the pair is known is the spec's own
choice (D1; log entry 13). -/
def Obligations.MviLoadsItsByte : Prop :=
  ∀ (s : State) (a : Reg) (imm : BitVec 8), s.rep = 0 →
    HasWord (.mvi a imm) (0x7000 + imm.toNat * 16 + a.toNat) ∧
    (s.mviLat = none →
      Completes (.mvi a imm) s fun t =>
        t.getReg a = BitVec.ofInt 16 imm.toInt ∧ t.mviLat = some a ∧ t.pc = s.pc + 1 ∧ t.rep = 0 ∧
          t.divWait = s.divWait - 1 ∧ t.flags = s.flags ∧ KeepsRegsBut a s t ∧ KeepsRest s t) ∧
    (s.mviLat = some a →
      Completes (.mvi a imm) s
        (WritesReg a (BitVec.ofNat 16 (imm.toNat * 256 + (s.getReg a).toNat % 256)) s.flags s)) ∧
    (∀ r, s.mviLat = some r → r ≠ a → exec (.mvi a imm) s = .refused .mviPairMismatch)

/-- R131. Two MVIs, low byte first, load a 16-bit constant and leave no pair open. It rests on the spec's own choice D1
(log entry 13). -/
def Obligations.MviPairLoadsTheConstant : Prop :=
  ∀ (s : State) (a : Reg) (v : Word), s.rep = 0 → s.mviLat = none →
    ∃ t u, exec (.mvi a (BitVec.ofNat 8 v.toNat)) s = .next t ∧
      exec (.mvi a (BitVec.ofNat 8 (v.toNat / 256))) t = .next u ∧
      u.getReg a = v ∧ u.mviLat = none ∧ u.pc = s.pc + 2 ∧ u.rep = 0 ∧ u.flags = s.flags ∧ KeepsRegsBut a s u ∧
      KeepsRest s u

/-- R133, R134. OUT and IN complete in every state, each one event at the port; an IN reads the platform's next
supplied value, or a free value of which nothing is said. The trace and the supply are the model's choice (D24; log
entry 11). -/
def Obligations.PortAccessesAreEvents : Prop :=
  ∀ (s : State) (a : Reg) (p : Port),
    (HasWord (.out a p) (0xB800 + p.toNat * 16 + a.toNat) ∧
      Completes (.out a p) s fun t =>
        t.io = s.io ++ [.write p (s.getReg a)] ∧ t.portIn = s.portIn ∧ t.flags = s.flags ∧ KeepsRegs s t ∧
          Advances s t ∧ KeepsMemory s t ∧ KeepsRas s t ∧ t.acc = s.acc ∧ KeepsDivider s t ∧ KeepsModel s t) ∧
    (HasWord (.inp a p) (0xC000 + p.toNat * 16 + a.toNat) ∧
      Completes (.inp a p) s fun t =>
        t.io = s.io ++ [.read p (t.getReg a)] ∧
          (∀ v vs, s.portIn = v :: vs → t.getReg a = v ∧ t.portIn = vs ∧ t.drawn = s.drawn) ∧
          (s.portIn = [] → t.portIn = [] ∧ t.drawn = s.drawn + 1) ∧ t.flags = s.flags ∧ KeepsRegsBut a s t ∧
          Advances s t ∧ KeepsMemory s t ∧ KeepsRas s t ∧ t.acc = s.acc ∧ KeepsDivider s t ∧ t.cfg = s.cfg)

/-- R135, R52. WR completes at every address that exists: the word is stored at register B's address, every byte
outside it is unchanged, and the address counts as stored to. The range of addresses is the spec's own choice (D12; log
entry 7), the stored-to list the model's (log entry 5). -/
def Obligations.WrStoresOneWord : Prop :=
  ∀ (s : State) (a b : Reg), (s.getReg b).toNat < s.cfg.memWords →
    HasWord (.wr a b) (0xC900 + b.toNat * 16 + a.toNat) ∧
      Completes (.wr a b) s fun t =>
        Memory.readWord t.mem (s.getReg b) = some (s.getReg a) ∧
          (∀ n, n ≠ lowKey (s.getReg b) → n ≠ highKey (s.getReg b) →
            Memory.readByte t.mem n = Memory.readByte s.mem n) ∧
          (∀ n, n ∈ t.stored ↔ n = (s.getReg b).toNat ∨ n ∈ s.stored) ∧ t.flags = s.flags ∧ KeepsRegs s t ∧
          Advances s t ∧ KeepsRas s t ∧ t.acc = s.acc ∧ KeepsDivider s t ∧ KeepsPorts s t ∧ KeepsModel s t

/-- R136, R51. RD completes at every address that exists and holds a value, and copies it. The range of addresses is
the spec's own choice (D12), unwritten words log entry 7. -/
def Obligations.RdLoadsOneWord : Prop :=
  ∀ (s : State) (a b : Reg) (v : Word), (s.getReg b).toNat < s.cfg.memWords →
    Memory.readWord s.mem (s.getReg b) = some v →
    HasWord (.rd a b) (0xCA00 + b.toNat * 16 + a.toNat) ∧
      Completes (.rd a b) s (WritesReg a v s.flags s)

/-- R137, R299. XCHG completes at every address that exists and holds a value, also with register A its own address;
XTOS is the same at register 0's address. The range of addresses is the spec's own choice (D12; log entry 7), the
stored-to list the model's (log entry 5). -/
def Obligations.XchgExchangesOneWord : Prop :=
  ∀ (s : State) (a b : Reg) (v : Word), (s.getReg b).toNat < s.cfg.memWords →
    Memory.readWord s.mem (s.getReg b) = some v →
    HasWord (.xchg a b) (0xCB00 + b.toNat * 16 + a.toNat) ∧ HasWord (.xtos a) (0xCB00 + a.toNat) ∧
      ∀ i ∈ [Instr.xchg a b, Instr.xtos a], (i = .xtos a → b = sp) →
        Completes i s fun t =>
          t.getReg a = v ∧ Memory.readWord t.mem (s.getReg b) = some (s.getReg a) ∧
            (∀ n, n ≠ lowKey (s.getReg b) → n ≠ highKey (s.getReg b) →
              Memory.readByte t.mem n = Memory.readByte s.mem n) ∧
            (∀ n, n ∈ t.stored ↔ n = (s.getReg b).toNat ∨ n ∈ s.stored) ∧ t.flags = s.flags ∧
            KeepsRegsBut a s t ∧ Advances s t ∧ KeepsRas s t ∧ t.acc = s.acc ∧ KeepsDivider s t ∧
            KeepsPorts s t ∧ KeepsModel s t

/-- R51, R52. Where a memory access stops: at an address that does not exist, and at a read of a word that holds no
value. Both stops are the spec's own choice (D12, D16; log entry 7). -/
def Obligations.MemoryAccessesStopOutside : Prop :=
  ∀ (s : State) (a b : Reg),
    (s.cfg.memWords ≤ (s.getReg b).toNat →
      exec (.wr a b) s = .fault (.writeOutside (s.getReg b)) ∧ exec (.rd a b) s = .fault (.readOutside (s.getReg b)) ∧
        exec (.xchg a b) s = .fault (.readOutside (s.getReg b))) ∧
    ((s.getReg b).toNat < s.cfg.memWords → Memory.readWord s.mem (s.getReg b) = none →
      exec (.rd a b) s = .fault (.readUnwritten (s.getReg b)) ∧
        exec (.xchg a b) s = .fault (.readUnwritten (s.getReg b)))

/-- R51, R62, R81. Where a fetch stops: an address that does not exist, a word that holds no value, a word the program
has stored to, a word that is no instruction. The stops are the spec's own choices (log entries 5 to 7), their order
the model's (log entry 27). -/
def Obligations.FetchesStopByName : Prop :=
  ∀ s : State,
    (s.cfg.memWords ≤ (fetchAddr s.pc).toNat → step s = .fault (.fetchOutside s.pc)) ∧
      ((fetchAddr s.pc).toNat < s.cfg.memWords →
        (Memory.readWord s.mem (fetchAddr s.pc) = none → step s = .fault (.fetchUnwritten s.pc)) ∧
          ∀ w, Memory.readWord s.mem (fetchAddr s.pc) = some w →
            ((fetchAddr s.pc).toNat ∈ s.stored → step s = .refused (.selfModifyingCode s.pc)) ∧
              ((fetchAddr s.pc).toNat ∉ s.stored → ∀ e, decode w = .error e →
                step s = .refused (.notAnInstruction e w)))

/-- R295, R297, R298. PUSH of one register and POP to another, each its two instructions, copy the register and leave
SP as it was, if the word below SP exists. The two expansions are as the spec gives them (log entry 8). -/
def Obligations.PushThenPopCopiesTheRegister : Prop :=
  ∀ (s : State) (m n : Reg), n ≠ sp → m ≠ sp → (s.getReg sp - 1).toNat < s.cfg.memWords →
    ∃ t u v w, exec (.dec sp) s = .next t ∧ exec (.wr n sp) t = .next u ∧ exec (.rd m sp) u = .next v ∧
      exec (.inc sp) v = .next w ∧ w.getReg m = s.getReg n ∧ w.getReg sp = s.getReg sp ∧
      Memory.readWord w.mem (s.getReg sp - 1) = some (s.getReg n) ∧
      ∀ r, r ≠ m → w.getReg r = s.getReg r
end

