-- ==== Sys2Proof/Laws/Decode.lean ====
section
/-! SUPPORT. The fields of a word as numbers, and the number of each form of word: the two halves from which a decoding
is computed by arithmetic. -/

namespace Sys2Proof

theorem rowOf_toNat (w : Word) : (rowOf w).toNat = w.toNat / 4096 := by
  have := w.isLt
  simp [rowOf, Nat.shiftRight_eq_div_pow]; omega

theorem colOf_toNat (w : Word) : (colOf w).toNat = w.toNat / 256 % 16 := by
  simp [colOf, Nat.shiftRight_eq_div_pow]

theorem regA_toNat (w : Word) : (regA w).toNat = w.toNat % 16 := by
  simp [regA]

theorem regB_toNat (w : Word) : (regB w).toNat = w.toNat / 16 % 16 := by
  simp [regB, Nat.shiftRight_eq_div_pow]

theorem constK_toNat (w : Word) : (constK w).toNat = w.toNat / 16 % 16 := by
  simp [constK, Nat.shiftRight_eq_div_pow]

theorem imm8Of_toNat (w : Word) : (imm8Of w).toNat = w.toNat / 16 % 256 := by
  simp [imm8Of, Nat.shiftRight_eq_div_pow]

theorem portOf_toNat (w : Word) : (portOf w).toNat = w.toNat / 16 % 128 := by
  simp [portOf, Nat.shiftRight_eq_div_pow]

theorem absOf_toNat (w : Word) : (absOf w).toNat = w.toNat % 16384 := by
  simp [absOf]

theorem relOf_toNat (w : Word) : (relOf w).toNat = w.toNat % 512 := by
  simp [relOf]

theorem lowByteOf_toNat (w : Word) : (lowByteOf w).toNat = w.toNat % 256 := by
  simp [lowByteOf]

theorem wordOf_toNat {n : Nat} (h : n < 65536) : (wordOf n).toNat = n := by
  simp [wordOf]; omega

@[simp] theorem ofCode_code (cc : Cond) : Cond.ofCode (BitVec.ofNat 3 cc.code) = cc := by
  cases cc <;> rfl

theorem code_lt (cc : Cond) : cc.code < 8 := by
  cases cc <;> decide

theorem aluWord_toNat {top : Nat} (b a : BitVec 4) (h : top < 256) :
    (aluWord top b a).toNat = top * 256 + b.toNat * 16 + a.toNat := by
  rw [aluWord, wordOf_toNat (by omega)]

theorem immWord_toNat {base : Nat} (imm : BitVec 8) (a : Reg) (h : base ≤ 61440) :
    (immWord base imm a).toNat = base + imm.toNat * 16 + a.toNat := by
  rw [immWord, wordOf_toNat (by omega)]

theorem portWord_toNat {base : Nat} (p : Port) (a : Reg) (h : base ≤ 63488) :
    (portWord base p a).toNat = base + p.toNat * 16 + a.toNat := by
  rw [portWord, wordOf_toNat (by omega)]

theorem flowWord_toNat {base low : Nat} (cc : Cond) (h : base + low < 61440) :
    (flowWord base cc low).toNat = base + cc.code * 512 + low := by
  have := code_lt cc
  rw [flowWord, wordOf_toNat (by omega)]

/-- The fields of an ALU word. -/
theorem fields_aluWord {top : Nat} (b a : BitVec 4) (h : top < 256) :
    rowOf (aluWord top b a) = BitVec.ofNat 4 (top / 16) ∧ colOf (aluWord top b a) = BitVec.ofNat 4 top ∧
      regB (aluWord top b a) = b ∧ constK (aluWord top b a) = b ∧ regA (aluWord top b a) = a := by
  refine ⟨?_, ?_, ?_, ?_, ?_⟩ <;> apply BitVec.eq_of_toNat_eq <;>
    simp only [rowOf_toNat, colOf_toNat, regB_toNat, constK_toNat, regA_toNat, aluWord_toNat b a h,
      BitVec.toNat_ofNat] <;> omega

end Sys2Proof
end

