-- ==== Sys2Proof/Laws/Flags.lean ====
section
/-! SUPPORT. The adder's results as bit-vector sums, and the conditions. -/

namespace Sys2Proof.Machine

/-- R11. The result of an addition, as a sum of words. -/
theorem add16_r (a b : Word) (cin : Bool) : (add16 a b cin).r = a + b + BitVec.ofNat 16 (bit cin) := by
  apply BitVec.eq_of_toNat_eq
  simp [add16]

/-- R12. The result of a subtraction, as a difference of words. -/
theorem sub16_r (sense : Bool) (a b : Word) (bin : Bool) :
    (sub16 sense a b bin).r = a - b - BitVec.ofNat 16 (bit bin) := by
  apply BitVec.eq_of_toNat_eq
  have ha := a.isLt
  have hb := b.isLt
  cases bin <;> simp [sub16, bit, BitVec.toNat_sub] <;> omega

@[simp] theorem bit_false : bit false = 0 := rfl

@[simp] theorem bit_true : bit true = 1 := rfl

/-- R12. The incoming borrow is C in the machine's sense. -/
theorem borrowIn_eq (sense c : Bool) : borrowIn sense c = (c == sense) := by
  cases sense <;> cases c <;> rfl

end Sys2Proof.Machine
end

