-- ==== Sys2Proof/Laws/Memory.lean ====
section
/-! SUPPORT. The memory: a read after a write, the canonical form and the range of the cells are kept, the addresses
stored to; and what each memory operation of the state can answer. -/

namespace Sys2Proof.Machine

/-! Bytes. -/

@[simp] theorem readByte_writeByte_self (m : Memory) (a : Nat) (v : Byte) :
    Memory.readByte (Memory.writeByte m a v) a = some v := by
  induction m with
  | nil => simp [Memory.writeByte, Memory.readByte]
  | cons c m ih =>
    obtain ⟨b, u⟩ := c
    simp only [Memory.writeByte]
    split
    · simp [Memory.readByte]
    · split
      · simp [Memory.readByte]
      · next h => simp [Memory.readByte, h, ih]

theorem readByte_writeByte_ne (m : Memory) {a b : Nat} (v : Byte) (h : b ≠ a) :
    Memory.readByte (Memory.writeByte m a v) b = Memory.readByte m b := by
  induction m with
  | nil => simp [Memory.writeByte, Memory.readByte, h]
  | cons c m ih =>
    obtain ⟨d, u⟩ := c
    simp only [Memory.writeByte]
    split
    · simp [Memory.readByte, h]
    · split
      · next _ e => subst e; simp [Memory.readByte, h]
      · simp [Memory.readByte, ih]

theorem wfFrom_mono {lo lo' : Nat} (h : lo' ≤ lo) {m : Memory} (hm : Memory.wfFrom lo m = true) :
    Memory.wfFrom lo' m = true := by
  cases m with
  | nil => rfl
  | cons c m =>
    obtain ⟨b, u⟩ := c
    simp only [Memory.wfFrom, Bool.and_eq_true, decide_eq_true_eq] at hm ⊢
    exact ⟨h.trans hm.1, hm.2⟩

theorem wfFrom_writeByte {lo a : Nat} (h : lo ≤ a) {m : Memory} (v : Byte) (hm : Memory.wfFrom lo m = true) :
    Memory.wfFrom lo (Memory.writeByte m a v) = true := by
  induction m generalizing lo with
  | nil => simp [Memory.writeByte, Memory.wfFrom, h]
  | cons c m ih =>
    obtain ⟨b, u⟩ := c
    simp only [Memory.wfFrom, Bool.and_eq_true, decide_eq_true_eq] at hm
    simp only [Memory.writeByte]
    split
    · next hab => simp [Memory.wfFrom, h, hm.2]; omega
    · split
      · next _ e => subst e; simp [Memory.wfFrom, h, hm.2]
      · next h1 h2 =>
        simp only [Memory.wfFrom, Bool.and_eq_true, decide_eq_true_eq]
        exact ⟨hm.1, ih (by omega) hm.2⟩

/-- A byte write keeps the canonical form. -/
theorem wf_writeByte {m : Memory} (a : Nat) (v : Byte) (hm : Memory.wf m = true) :
    Memory.wf (Memory.writeByte m a v) = true :=
  wfFrom_writeByte (Nat.zero_le a) v hm

theorem below_writeByte {n a : Nat} (h : a < n) {m : Memory} (v : Byte) (hm : Memory.below n m = true) :
    Memory.below n (Memory.writeByte m a v) = true := by
  induction m with
  | nil => simp [Memory.writeByte, Memory.below, h]
  | cons c m ih =>
    obtain ⟨b, u⟩ := c
    simp only [Memory.below, List.all_cons, Bool.and_eq_true, decide_eq_true_eq] at hm
    simp only [Memory.writeByte]
    split
    · simp only [Memory.below, List.all_cons, Bool.and_eq_true, decide_eq_true_eq]; exact ⟨h, hm.1, hm.2⟩
    · split
      · simp only [Memory.below, List.all_cons, Bool.and_eq_true, decide_eq_true_eq]; exact ⟨h, hm.2⟩
      · simp only [Memory.below, List.all_cons, Bool.and_eq_true, decide_eq_true_eq]; exact ⟨hm.1, ih hm.2⟩

/-! Words. -/

theorem highByte_append_lowByte (v : Word) : (highByte v ++ lowByte v : Word) = v := by
  apply BitVec.eq_of_toNat_eq
  show (highByte v ++ lowByte v : BitVec (8 + 8)).toNat = _
  rw [BitVec.toNat_append, ← Nat.shiftLeft_add_eq_or_of_lt (lowByte v).isLt, Nat.shiftLeft_eq]
  simp [highByte, lowByte, Nat.shiftRight_eq_div_pow]
  omega

@[simp] theorem readWord_writeWord_self (m : Memory) (a v : Word) :
    Memory.readWord (Memory.writeWord m a v) a = some v := by
  have h : lowKey a ≠ highKey a := by simp [lowKey, highKey]
  simp [Memory.readWord, Memory.writeWord, readByte_writeByte_ne _ _ h, highByte_append_lowByte]

/-- A word write leaves every byte outside the word's two cells alone. -/
theorem readByte_writeWord_ne (m : Memory) {a : Word} (v : Word) {n : Nat} (hl : n ≠ lowKey a) (hh : n ≠ highKey a) :
    Memory.readByte (Memory.writeWord m a v) n = Memory.readByte m n := by
  simp [Memory.writeWord, readByte_writeByte_ne _ _ hh, readByte_writeByte_ne _ _ hl]

theorem readWord_writeWord_ne (m : Memory) {a b : Word} (v : Word) (h : b ≠ a) :
    Memory.readWord (Memory.writeWord m a v) b = Memory.readWord m b := by
  have hn : b.toNat ≠ a.toNat := fun e => h (BitVec.eq_of_toNat_eq e)
  have h1 : Memory.readByte (Memory.writeWord m a v) (lowKey b) = Memory.readByte m (lowKey b) :=
    readByte_writeWord_ne m v (by simp [lowKey]; omega) (by simp [lowKey, highKey]; omega)
  have h2 : Memory.readByte (Memory.writeWord m a v) (highKey b) = Memory.readByte m (highKey b) :=
    readByte_writeWord_ne m v (by simp [lowKey, highKey]; omega) (by simp [highKey]; omega)
  simp [Memory.readWord, h1, h2]

/-- A word write keeps the canonical form. -/
theorem wf_writeWord {m : Memory} (a v : Word) (hm : Memory.wf m = true) : Memory.wf (Memory.writeWord m a v) = true :=
  wf_writeByte _ _ (wf_writeByte _ _ hm)

theorem below_writeWord {n : Nat} {m : Memory} {a : Word} (v : Word) (h : a.toNat < n)
    (hm : Memory.below (2 * n) m = true) : Memory.below (2 * n) (Memory.writeWord m a v) = true :=
  below_writeByte (by simp [highKey]; omega) _ (below_writeByte (by simp [lowKey]; omega) _ hm)

/-! The addresses stored to. -/

@[simp] theorem mem_addAddr {l : List Nat} {a b : Nat} : b ∈ addAddr l a ↔ b = a ∨ b ∈ l := by
  induction l with
  | nil => simp [addAddr]
  | cons c l ih =>
    simp only [addAddr]
    split
    · simp
    · split
      · next _ e => subst e; simp
      · simp [ih]; tauto

theorem risingFrom_addAddr {lo a : Nat} (h : lo ≤ a) {l : List Nat} (hl : risingFrom lo l = true) :
    risingFrom lo (addAddr l a) = true := by
  induction l generalizing lo with
  | nil => simp [addAddr, risingFrom, h]
  | cons b l ih =>
    simp only [risingFrom, Bool.and_eq_true, decide_eq_true_eq] at hl
    simp only [addAddr]
    split
    · next hab => simp [risingFrom, h, hl.2]; omega
    · split
      · next _ e => subst e; simp [risingFrom, h, hl.2]
      · next h1 h2 =>
        simp only [risingFrom, Bool.and_eq_true, decide_eq_true_eq]
        exact ⟨hl.1, ih (by omega) hl.2⟩

/-! What the memory operations of the state answer. -/

/-- R51. A read that answers a value: the address exists and the word holds that value. -/
theorem loadWord_next {s : State} {a v : Word} (h : s.loadWord a = .next v) :
    a.toNat < s.cfg.memWords ∧ Memory.readWord s.mem a = some v := by
  unfold State.loadWord at h
  split at h
  · cases h
  · next hlt =>
    split at h
    · next u hu => cases h; exact ⟨by omega, hu⟩
    · cases h

/-- R51. When a read answers a value. -/
theorem loadWord_of {s : State} {a v : Word} (ha : a.toNat < s.cfg.memWords)
    (hv : Memory.readWord s.mem a = some v) : s.loadWord a = .next v := by
  simp [State.loadWord, Nat.not_le.mpr ha, hv]

/-- R52. A write that answers a state: the address exists, and the state is the one with the word stored. -/
theorem storeWord_next {s t : State} {a v : Word} (h : s.storeWord a v = .next t) :
    a.toNat < s.cfg.memWords ∧
      t = { s with mem := Memory.writeWord s.mem a v, stored := addAddr s.stored a.toNat } := by
  unfold State.storeWord at h
  split at h
  · cases h
  · next hlt => cases h; exact ⟨by omega, rfl⟩

/-- R52. When a write answers a state. -/
theorem storeWord_of {s : State} {a : Word} (v : Word) (ha : a.toNat < s.cfg.memWords) :
    s.storeWord a v = .next { s with mem := Memory.writeWord s.mem a v, stored := addAddr s.stored a.toNat } := by
  simp [State.storeWord, Nat.not_le.mpr ha]

/-- R64, R62. A fetch that answers a word. -/
theorem fetchWord_next {s : State} {w : Word} (h : s.fetchWord = .next w) :
    (fetchAddr s.pc).toNat < s.cfg.memWords ∧ Memory.readWord s.mem (fetchAddr s.pc) = some w ∧
      (fetchAddr s.pc).toNat ∉ s.stored := by
  unfold State.fetchWord at h
  split at h
  · cases h
  · next hlt =>
    split at h
    · cases h
    · next u hu =>
      split at h
      · cases h
      · next hs => cases h; exact ⟨by omega, hu, by simpa using hs⟩

/-- R64, R62. When a fetch answers a word. -/
theorem fetchWord_of {s : State} {w : Word} (ha : (fetchAddr s.pc).toNat < s.cfg.memWords)
    (hv : Memory.readWord s.mem (fetchAddr s.pc) = some w) (hs : (fetchAddr s.pc).toNat ∉ s.stored) :
    s.fetchWord = .next w := by
  simp [State.fetchWord, Nat.not_le.mpr ha, hv, hs]

end Sys2Proof.Machine
end

