-- ==== Sys2Proof/Laws/Operands.lean ====
section
/-! SUPPORT. The operand forms as numbers and as bits: each form's one lemma, so that no proof unfolds it. -/

namespace Sys2Proof.Machine

theorem append_toNat {m n : Nat} (x : BitVec m) (y : BitVec n) : (x ++ y).toNat = x.toNat * 2 ^ n + y.toNat := by
  rw [BitVec.toNat_append, ← Nat.shiftLeft_add_eq_or_of_lt y.isLt, Nat.shiftLeft_eq]

theorem extractLsb'_toNat (v : Word) (k n : Nat) : (v.extractLsb' k n).toNat = v.toNat / 2 ^ k % 2 ^ n := by
  simp [Nat.shiftRight_eq_div_pow]

theorem lowByte_toNat (v : Word) : (lowByte v).toNat = v.toNat % 256 := by
  simp [lowByte]

theorem highByte_toNat (v : Word) : (highByte v).toNat = v.toNat / 256 := by
  have := v.isLt
  rw [highByte, extractLsb'_toNat]; omega

theorem lowNibble_toNat (v : Word) : (lowNibble v).toNat = v.toNat % 16 := by
  simp [lowNibble]

theorem withLowByte_toNat (v : Word) (b : BitVec 8) : (withLowByte v b).toNat = v.toNat / 256 * 256 + b.toNat := by
  have h := append_toNat (highByte v) b
  rw [highByte_toNat] at h; exact h

theorem withHighByte_toNat (v : Word) (b : BitVec 8) : (withHighByte v b).toNat = b.toNat * 256 + v.toNat % 256 := by
  have h := append_toNat b (lowByte v)
  rw [lowByte_toNat] at h; exact h

theorem withLowNibble_toNat (v : Word) (n : BitVec 4) :
    (withLowNibble v n).toNat = v.toNat / 16 * 16 + n.toNat := by
  have h := append_toNat (v.extractLsb' 4 12) n
  have := v.isLt
  rw [extractLsb'_toNat] at h
  exact h.trans (by omega)

theorem insert4_toNat (a b : Word) : (insert4 a b).toNat = b.toNat % 16 * 4096 + a.toNat / 16 := by
  have h := append_toNat (b.extractLsb' 0 4) (a.extractLsb' 4 12)
  have := a.isLt
  rw [extractLsb'_toNat, extractLsb'_toNat] at h
  exact h.trans (by omega)

theorem insert8_toNat (a b : Word) : (insert8 a b).toNat = b.toNat % 256 * 256 + a.toNat / 256 := by
  have h := append_toNat (b.extractLsb' 0 8) (a.extractLsb' 8 8)
  have := a.isLt
  rw [extractLsb'_toNat, extractLsb'_toNat] at h
  exact h.trans (by omega)

theorem insert12_toNat (a b : Word) : (insert12 a b).toNat = b.toNat % 4096 * 16 + a.toNat / 4096 := by
  have h := append_toNat (b.extractLsb' 0 12) (a.extractLsb' 12 4)
  have := a.isLt
  rw [extractLsb'_toNat, extractLsb'_toNat] at h
  exact h.trans (by omega)

theorem shiftRight1_toNat (top : Bool) (v : Word) :
    (shiftRight1 top v).toNat = top.toNat * 32768 + v.toNat / 2 := by
  have h := append_toNat (BitVec.ofBool top) (v.extractLsb' 1 15)
  have := v.isLt
  rw [extractLsb'_toNat, BitVec.toNat_ofBool] at h
  exact h.trans (by omega)

theorem shiftLeft1_toNat (v : Word) (low : Bool) :
    (shiftLeft1 v low).toNat = (v.toNat * 2 + low.toNat) % 65536 := by
  have h := append_toNat (v.extractLsb' 0 15) (BitVec.ofBool low)
  have := v.isLt
  have := Bool.toNat_le low
  rw [extractLsb'_toNat, BitVec.toNat_ofBool] at h
  exact h.trans (by omega)

/-- The bits of a shift to the right: each bit is the next higher one, and bit 15 is the bit shifted in. -/
theorem shiftRight1_getLsbD (top : Bool) (v : Word) (n : Nat) :
    (shiftRight1 top v).getLsbD n = if n < 15 then (v.extractLsb' 1 15).getLsbD n else (BitVec.ofBool top).getLsbD (n - 15) :=
  BitVec.getLsbD_append

/-- The bits of a shift to the left: bit 0 is the bit shifted in, each other bit is the next lower one. -/
theorem shiftLeft1_getLsbD (v : Word) (low : Bool) (n : Nat) :
    (shiftLeft1 v low).getLsbD n = if n < 1 then (BitVec.ofBool low).getLsbD n else (v.extractLsb' 0 15).getLsbD (n - 1) :=
  BitVec.getLsbD_append

theorem bitMask_getLsbD (k : BitVec 4) {n : Nat} (h : n < 16) : (bitMask k).getLsbD n = decide (n = k.toNat) := by
  rw [bitMask, BitVec.getLsbD_ofNat]
  simp [h, Nat.testBit_two_pow, eq_comm]

theorem lowMask_getLsbD (k : BitVec 4) {n : Nat} (h : n < 16) : (lowMask k).getLsbD n = decide (n < k.toNat) := by
  rw [lowMask, BitVec.getLsbD_ofNat]
  simp [h, Nat.testBit_two_pow_sub_one]

theorem signExtend8_eq (b : BitVec 8) : signExtend8 b = BitVec.ofInt 16 b.toInt := rfl

theorem jumpTarget_eq (pc : ProgAddr) (rel : BitVec 9) :
    jumpTarget pc rel = BitVec.ofInt 14 (pc.toNat + 1 + rel.toInt) := by
  rw [BitVec.ofInt_add, BitVec.ofInt_add]
  simp [jumpTarget, signExtend9, BitVec.signExtend]

end Sys2Proof.Machine
end

