-- ==== Sys2Proof/Laws/State.lean ====
section
/-! SUPPORT. One lemma per field of State and per update, true by rfl, so that no proof unfolds a record update; and the
register reads through each update. -/

namespace Sys2Proof.Machine

@[simp] theorem setReg_x (s : State) (r : Reg) (v : Word) : (s.setReg r v).x = s.x.set r.toNat v := rfl
@[simp] theorem setReg_pc (s : State) (r : Reg) (v : Word) : (s.setReg r v).pc = s.pc := rfl
@[simp] theorem setReg_flags (s : State) (r : Reg) (v : Word) : (s.setReg r v).flags = s.flags := rfl
@[simp] theorem setReg_mem (s : State) (r : Reg) (v : Word) : (s.setReg r v).mem = s.mem := rfl
@[simp] theorem setReg_ras (s : State) (r : Reg) (v : Word) : (s.setReg r v).ras = s.ras := rfl
@[simp] theorem setReg_rsp (s : State) (r : Reg) (v : Word) : (s.setReg r v).rsp = s.rsp := rfl
@[simp] theorem setReg_acc (s : State) (r : Reg) (v : Word) : (s.setReg r v).acc = s.acc := rfl
@[simp] theorem setReg_divq (s : State) (r : Reg) (v : Word) : (s.setReg r v).divq = s.divq := rfl
@[simp] theorem setReg_divr (s : State) (r : Reg) (v : Word) : (s.setReg r v).divr = s.divr := rfl
@[simp] theorem setReg_divd (s : State) (r : Reg) (v : Word) : (s.setReg r v).divd = s.divd := rfl
@[simp] theorem setReg_divWait (s : State) (r : Reg) (v : Word) : (s.setReg r v).divWait = s.divWait := rfl
@[simp] theorem setReg_mviLat (s : State) (r : Reg) (v : Word) : (s.setReg r v).mviLat = s.mviLat := rfl
@[simp] theorem setReg_rep (s : State) (r : Reg) (v : Word) : (s.setReg r v).rep = s.rep := rfl
@[simp] theorem setReg_io (s : State) (r : Reg) (v : Word) : (s.setReg r v).io = s.io := rfl
@[simp] theorem setReg_portIn (s : State) (r : Reg) (v : Word) : (s.setReg r v).portIn = s.portIn := rfl
@[simp] theorem setReg_stored (s : State) (r : Reg) (v : Word) : (s.setReg r v).stored = s.stored := rfl
@[simp] theorem setReg_drawn (s : State) (r : Reg) (v : Word) : (s.setReg r v).drawn = s.drawn := rfl
@[simp] theorem setReg_cfg (s : State) (r : Reg) (v : Word) : (s.setReg r v).cfg = s.cfg := rfl

@[simp] theorem setFlags_x (s : State) (f : Flags) : (s.setFlags f).x = s.x := rfl
@[simp] theorem setFlags_pc (s : State) (f : Flags) : (s.setFlags f).pc = s.pc := rfl
@[simp] theorem setFlags_flags (s : State) (f : Flags) : (s.setFlags f).flags = f := rfl
@[simp] theorem setFlags_mem (s : State) (f : Flags) : (s.setFlags f).mem = s.mem := rfl
@[simp] theorem setFlags_ras (s : State) (f : Flags) : (s.setFlags f).ras = s.ras := rfl
@[simp] theorem setFlags_rsp (s : State) (f : Flags) : (s.setFlags f).rsp = s.rsp := rfl
@[simp] theorem setFlags_acc (s : State) (f : Flags) : (s.setFlags f).acc = s.acc := rfl
@[simp] theorem setFlags_divq (s : State) (f : Flags) : (s.setFlags f).divq = s.divq := rfl
@[simp] theorem setFlags_divr (s : State) (f : Flags) : (s.setFlags f).divr = s.divr := rfl
@[simp] theorem setFlags_divd (s : State) (f : Flags) : (s.setFlags f).divd = s.divd := rfl
@[simp] theorem setFlags_divWait (s : State) (f : Flags) : (s.setFlags f).divWait = s.divWait := rfl
@[simp] theorem setFlags_mviLat (s : State) (f : Flags) : (s.setFlags f).mviLat = s.mviLat := rfl
@[simp] theorem setFlags_rep (s : State) (f : Flags) : (s.setFlags f).rep = s.rep := rfl
@[simp] theorem setFlags_io (s : State) (f : Flags) : (s.setFlags f).io = s.io := rfl
@[simp] theorem setFlags_portIn (s : State) (f : Flags) : (s.setFlags f).portIn = s.portIn := rfl
@[simp] theorem setFlags_stored (s : State) (f : Flags) : (s.setFlags f).stored = s.stored := rfl
@[simp] theorem setFlags_drawn (s : State) (f : Flags) : (s.setFlags f).drawn = s.drawn := rfl
@[simp] theorem setFlags_cfg (s : State) (f : Flags) : (s.setFlags f).cfg = s.cfg := rfl
@[simp] theorem getReg_setFlags (s : State) (f : Flags) (i : Reg) : (s.setFlags f).getReg i = s.getReg i := rfl

@[simp] theorem setC_x (s : State) (c : Bool) : (s.setC c).x = s.x := rfl
@[simp] theorem setC_pc (s : State) (c : Bool) : (s.setC c).pc = s.pc := rfl
@[simp] theorem setC_flags (s : State) (c : Bool) : (s.setC c).flags = { s.flags with c := c } := rfl
@[simp] theorem setC_mem (s : State) (c : Bool) : (s.setC c).mem = s.mem := rfl
@[simp] theorem setC_ras (s : State) (c : Bool) : (s.setC c).ras = s.ras := rfl
@[simp] theorem setC_rsp (s : State) (c : Bool) : (s.setC c).rsp = s.rsp := rfl
@[simp] theorem setC_acc (s : State) (c : Bool) : (s.setC c).acc = s.acc := rfl
@[simp] theorem setC_divq (s : State) (c : Bool) : (s.setC c).divq = s.divq := rfl
@[simp] theorem setC_divr (s : State) (c : Bool) : (s.setC c).divr = s.divr := rfl
@[simp] theorem setC_divd (s : State) (c : Bool) : (s.setC c).divd = s.divd := rfl
@[simp] theorem setC_divWait (s : State) (c : Bool) : (s.setC c).divWait = s.divWait := rfl
@[simp] theorem setC_mviLat (s : State) (c : Bool) : (s.setC c).mviLat = s.mviLat := rfl
@[simp] theorem setC_rep (s : State) (c : Bool) : (s.setC c).rep = s.rep := rfl
@[simp] theorem setC_io (s : State) (c : Bool) : (s.setC c).io = s.io := rfl
@[simp] theorem setC_portIn (s : State) (c : Bool) : (s.setC c).portIn = s.portIn := rfl
@[simp] theorem setC_stored (s : State) (c : Bool) : (s.setC c).stored = s.stored := rfl
@[simp] theorem setC_drawn (s : State) (c : Bool) : (s.setC c).drawn = s.drawn := rfl
@[simp] theorem setC_cfg (s : State) (c : Bool) : (s.setC c).cfg = s.cfg := rfl
@[simp] theorem getReg_setC (s : State) (c : Bool) (i : Reg) : (s.setC c).getReg i = s.getReg i := rfl

@[simp] theorem retire_x (s : State) (target : ProgAddr) : (retire target s).x = s.x := rfl
@[simp] theorem retire_pc (s : State) (target : ProgAddr) : (retire target s).pc = target := rfl
@[simp] theorem retire_flags (s : State) (target : ProgAddr) : (retire target s).flags = s.flags := rfl
@[simp] theorem retire_mem (s : State) (target : ProgAddr) : (retire target s).mem = s.mem := rfl
@[simp] theorem retire_ras (s : State) (target : ProgAddr) : (retire target s).ras = s.ras := rfl
@[simp] theorem retire_rsp (s : State) (target : ProgAddr) : (retire target s).rsp = s.rsp := rfl
@[simp] theorem retire_acc (s : State) (target : ProgAddr) : (retire target s).acc = s.acc := rfl
@[simp] theorem retire_divq (s : State) (target : ProgAddr) : (retire target s).divq = s.divq := rfl
@[simp] theorem retire_divr (s : State) (target : ProgAddr) : (retire target s).divr = s.divr := rfl
@[simp] theorem retire_divd (s : State) (target : ProgAddr) : (retire target s).divd = s.divd := rfl
@[simp] theorem retire_divWait (s : State) (target : ProgAddr) : (retire target s).divWait = s.divWait - 1 := rfl
@[simp] theorem retire_mviLat (s : State) (target : ProgAddr) : (retire target s).mviLat = none := rfl
@[simp] theorem retire_rep (s : State) (target : ProgAddr) : (retire target s).rep = s.rep - 1 := rfl
@[simp] theorem retire_io (s : State) (target : ProgAddr) : (retire target s).io = s.io := rfl
@[simp] theorem retire_portIn (s : State) (target : ProgAddr) : (retire target s).portIn = s.portIn := rfl
@[simp] theorem retire_stored (s : State) (target : ProgAddr) : (retire target s).stored = s.stored := rfl
@[simp] theorem retire_drawn (s : State) (target : ProgAddr) : (retire target s).drawn = s.drawn := rfl
@[simp] theorem retire_cfg (s : State) (target : ProgAddr) : (retire target s).cfg = s.cfg := rfl
@[simp] theorem getReg_retire (s : State) (target : ProgAddr) (i : Reg) : (retire target s).getReg i = s.getReg i := rfl

@[simp] theorem rasPush_x (s : State) (v : ProgAddr) : (s.rasPush v).x = s.x := rfl
@[simp] theorem rasPush_pc (s : State) (v : ProgAddr) : (s.rasPush v).pc = s.pc := rfl
@[simp] theorem rasPush_flags (s : State) (v : ProgAddr) : (s.rasPush v).flags = s.flags := rfl
@[simp] theorem rasPush_mem (s : State) (v : ProgAddr) : (s.rasPush v).mem = s.mem := rfl
@[simp] theorem rasPush_ras (s : State) (v : ProgAddr) : (s.rasPush v).ras = s.ras.set (s.rsp + 1).toNat v := rfl
@[simp] theorem rasPush_rsp (s : State) (v : ProgAddr) : (s.rasPush v).rsp = s.rsp + 1 := rfl
@[simp] theorem rasPush_acc (s : State) (v : ProgAddr) : (s.rasPush v).acc = s.acc := rfl
@[simp] theorem rasPush_divq (s : State) (v : ProgAddr) : (s.rasPush v).divq = s.divq := rfl
@[simp] theorem rasPush_divr (s : State) (v : ProgAddr) : (s.rasPush v).divr = s.divr := rfl
@[simp] theorem rasPush_divd (s : State) (v : ProgAddr) : (s.rasPush v).divd = s.divd := rfl
@[simp] theorem rasPush_divWait (s : State) (v : ProgAddr) : (s.rasPush v).divWait = s.divWait := rfl
@[simp] theorem rasPush_mviLat (s : State) (v : ProgAddr) : (s.rasPush v).mviLat = s.mviLat := rfl
@[simp] theorem rasPush_rep (s : State) (v : ProgAddr) : (s.rasPush v).rep = s.rep := rfl
@[simp] theorem rasPush_io (s : State) (v : ProgAddr) : (s.rasPush v).io = s.io := rfl
@[simp] theorem rasPush_portIn (s : State) (v : ProgAddr) : (s.rasPush v).portIn = s.portIn := rfl
@[simp] theorem rasPush_stored (s : State) (v : ProgAddr) : (s.rasPush v).stored = s.stored := rfl
@[simp] theorem rasPush_drawn (s : State) (v : ProgAddr) : (s.rasPush v).drawn = s.drawn := rfl
@[simp] theorem rasPush_cfg (s : State) (v : ProgAddr) : (s.rasPush v).cfg = s.cfg := rfl
@[simp] theorem getReg_rasPush (s : State) (v : ProgAddr) (i : Reg) : (s.rasPush v).getReg i = s.getReg i := rfl

@[simp] theorem rasDrop_x (s : State) : (s.rasDrop).x = s.x := rfl
@[simp] theorem rasDrop_pc (s : State) : (s.rasDrop).pc = s.pc := rfl
@[simp] theorem rasDrop_flags (s : State) : (s.rasDrop).flags = s.flags := rfl
@[simp] theorem rasDrop_mem (s : State) : (s.rasDrop).mem = s.mem := rfl
@[simp] theorem rasDrop_ras (s : State) : (s.rasDrop).ras = s.ras := rfl
@[simp] theorem rasDrop_rsp (s : State) : (s.rasDrop).rsp = s.rsp - 1 := rfl
@[simp] theorem rasDrop_acc (s : State) : (s.rasDrop).acc = s.acc := rfl
@[simp] theorem rasDrop_divq (s : State) : (s.rasDrop).divq = s.divq := rfl
@[simp] theorem rasDrop_divr (s : State) : (s.rasDrop).divr = s.divr := rfl
@[simp] theorem rasDrop_divd (s : State) : (s.rasDrop).divd = s.divd := rfl
@[simp] theorem rasDrop_divWait (s : State) : (s.rasDrop).divWait = s.divWait := rfl
@[simp] theorem rasDrop_mviLat (s : State) : (s.rasDrop).mviLat = s.mviLat := rfl
@[simp] theorem rasDrop_rep (s : State) : (s.rasDrop).rep = s.rep := rfl
@[simp] theorem rasDrop_io (s : State) : (s.rasDrop).io = s.io := rfl
@[simp] theorem rasDrop_portIn (s : State) : (s.rasDrop).portIn = s.portIn := rfl
@[simp] theorem rasDrop_stored (s : State) : (s.rasDrop).stored = s.stored := rfl
@[simp] theorem rasDrop_drawn (s : State) : (s.rasDrop).drawn = s.drawn := rfl
@[simp] theorem rasDrop_cfg (s : State) : (s.rasDrop).cfg = s.cfg := rfl
@[simp] theorem getReg_rasDrop (s : State) (i : Reg) : (s.rasDrop).getReg i = s.getReg i := rfl

@[simp] theorem portWrite_x (s : State) (p : Port) (v : Word) : (s.portWrite p v).x = s.x := rfl
@[simp] theorem portWrite_pc (s : State) (p : Port) (v : Word) : (s.portWrite p v).pc = s.pc := rfl
@[simp] theorem portWrite_flags (s : State) (p : Port) (v : Word) : (s.portWrite p v).flags = s.flags := rfl
@[simp] theorem portWrite_mem (s : State) (p : Port) (v : Word) : (s.portWrite p v).mem = s.mem := rfl
@[simp] theorem portWrite_ras (s : State) (p : Port) (v : Word) : (s.portWrite p v).ras = s.ras := rfl
@[simp] theorem portWrite_rsp (s : State) (p : Port) (v : Word) : (s.portWrite p v).rsp = s.rsp := rfl
@[simp] theorem portWrite_acc (s : State) (p : Port) (v : Word) : (s.portWrite p v).acc = s.acc := rfl
@[simp] theorem portWrite_divq (s : State) (p : Port) (v : Word) : (s.portWrite p v).divq = s.divq := rfl
@[simp] theorem portWrite_divr (s : State) (p : Port) (v : Word) : (s.portWrite p v).divr = s.divr := rfl
@[simp] theorem portWrite_divd (s : State) (p : Port) (v : Word) : (s.portWrite p v).divd = s.divd := rfl
@[simp] theorem portWrite_divWait (s : State) (p : Port) (v : Word) : (s.portWrite p v).divWait = s.divWait := rfl
@[simp] theorem portWrite_mviLat (s : State) (p : Port) (v : Word) : (s.portWrite p v).mviLat = s.mviLat := rfl
@[simp] theorem portWrite_rep (s : State) (p : Port) (v : Word) : (s.portWrite p v).rep = s.rep := rfl
@[simp] theorem portWrite_io (s : State) (p : Port) (v : Word) : (s.portWrite p v).io = s.io ++ [.write p v] := rfl
@[simp] theorem portWrite_portIn (s : State) (p : Port) (v : Word) : (s.portWrite p v).portIn = s.portIn := rfl
@[simp] theorem portWrite_stored (s : State) (p : Port) (v : Word) : (s.portWrite p v).stored = s.stored := rfl
@[simp] theorem portWrite_drawn (s : State) (p : Port) (v : Word) : (s.portWrite p v).drawn = s.drawn := rfl
@[simp] theorem portWrite_cfg (s : State) (p : Port) (v : Word) : (s.portWrite p v).cfg = s.cfg := rfl
@[simp] theorem getReg_portWrite (s : State) (p : Port) (v : Word) (i : Reg) : (s.portWrite p v).getReg i = s.getReg i := rfl

@[simp] theorem portRead_x (s : State) (p : Port) : (s.portRead p).x = s.x := rfl
@[simp] theorem portRead_pc (s : State) (p : Port) : (s.portRead p).pc = s.pc := rfl
@[simp] theorem portRead_flags (s : State) (p : Port) : (s.portRead p).flags = s.flags := rfl
@[simp] theorem portRead_mem (s : State) (p : Port) : (s.portRead p).mem = s.mem := rfl
@[simp] theorem portRead_ras (s : State) (p : Port) : (s.portRead p).ras = s.ras := rfl
@[simp] theorem portRead_rsp (s : State) (p : Port) : (s.portRead p).rsp = s.rsp := rfl
@[simp] theorem portRead_acc (s : State) (p : Port) : (s.portRead p).acc = s.acc := rfl
@[simp] theorem portRead_divq (s : State) (p : Port) : (s.portRead p).divq = s.divq := rfl
@[simp] theorem portRead_divr (s : State) (p : Port) : (s.portRead p).divr = s.divr := rfl
@[simp] theorem portRead_divd (s : State) (p : Port) : (s.portRead p).divd = s.divd := rfl
@[simp] theorem portRead_divWait (s : State) (p : Port) : (s.portRead p).divWait = s.divWait := rfl
@[simp] theorem portRead_mviLat (s : State) (p : Port) : (s.portRead p).mviLat = s.mviLat := rfl
@[simp] theorem portRead_rep (s : State) (p : Port) : (s.portRead p).rep = s.rep := rfl
@[simp] theorem portRead_io (s : State) (p : Port) : (s.portRead p).io = s.io ++ [.read p (s.portInput p)] := rfl
@[simp] theorem portRead_portIn (s : State) (p : Port) : (s.portRead p).portIn = s.portIn.tail := rfl
@[simp] theorem portRead_stored (s : State) (p : Port) : (s.portRead p).stored = s.stored := rfl
@[simp] theorem portRead_drawn (s : State) (p : Port) : (s.portRead p).drawn = if s.portIn.isEmpty then s.drawn + 1 else s.drawn := rfl
@[simp] theorem portRead_cfg (s : State) (p : Port) : (s.portRead p).cfg = s.cfg := rfl
@[simp] theorem getReg_portRead (s : State) (p : Port) (i : Reg) : (s.portRead p).getReg i = s.getReg i := rfl

@[simp] theorem loadProgramWord_x (s : State) (a v : Word) : (s.loadProgramWord a v).x = s.x := rfl
@[simp] theorem loadProgramWord_pc (s : State) (a v : Word) : (s.loadProgramWord a v).pc = s.pc := rfl
@[simp] theorem loadProgramWord_flags (s : State) (a v : Word) : (s.loadProgramWord a v).flags = s.flags := rfl
@[simp] theorem loadProgramWord_mem (s : State) (a v : Word) : (s.loadProgramWord a v).mem = Memory.writeWord s.mem a v := rfl
@[simp] theorem loadProgramWord_ras (s : State) (a v : Word) : (s.loadProgramWord a v).ras = s.ras := rfl
@[simp] theorem loadProgramWord_rsp (s : State) (a v : Word) : (s.loadProgramWord a v).rsp = s.rsp := rfl
@[simp] theorem loadProgramWord_acc (s : State) (a v : Word) : (s.loadProgramWord a v).acc = s.acc := rfl
@[simp] theorem loadProgramWord_divq (s : State) (a v : Word) : (s.loadProgramWord a v).divq = s.divq := rfl
@[simp] theorem loadProgramWord_divr (s : State) (a v : Word) : (s.loadProgramWord a v).divr = s.divr := rfl
@[simp] theorem loadProgramWord_divd (s : State) (a v : Word) : (s.loadProgramWord a v).divd = s.divd := rfl
@[simp] theorem loadProgramWord_divWait (s : State) (a v : Word) : (s.loadProgramWord a v).divWait = s.divWait := rfl
@[simp] theorem loadProgramWord_mviLat (s : State) (a v : Word) : (s.loadProgramWord a v).mviLat = s.mviLat := rfl
@[simp] theorem loadProgramWord_rep (s : State) (a v : Word) : (s.loadProgramWord a v).rep = s.rep := rfl
@[simp] theorem loadProgramWord_io (s : State) (a v : Word) : (s.loadProgramWord a v).io = s.io := rfl
@[simp] theorem loadProgramWord_portIn (s : State) (a v : Word) : (s.loadProgramWord a v).portIn = s.portIn := rfl
@[simp] theorem loadProgramWord_stored (s : State) (a v : Word) : (s.loadProgramWord a v).stored = s.stored.filter fun b => b != a.toNat := rfl
@[simp] theorem loadProgramWord_drawn (s : State) (a v : Word) : (s.loadProgramWord a v).drawn = s.drawn := rfl
@[simp] theorem loadProgramWord_cfg (s : State) (a v : Word) : (s.loadProgramWord a v).cfg = { s.cfg with memWords := max s.cfg.memWords (a.toNat + 1) } := rfl
@[simp] theorem getReg_loadProgramWord (s : State) (a v : Word) (i : Reg) : (s.loadProgramWord a v).getReg i = s.getReg i := rfl

@[simp] theorem getReg_with_pc (s : State) (i : Reg) (v : ProgAddr) :
    State.getReg { s with pc := v } i = s.getReg i := rfl
@[simp] theorem getReg_with_flags (s : State) (i : Reg) (v : Flags) :
    State.getReg { s with flags := v } i = s.getReg i := rfl
@[simp] theorem getReg_with_mem (s : State) (i : Reg) (v : Memory) :
    State.getReg { s with mem := v } i = s.getReg i := rfl
@[simp] theorem getReg_with_ras (s : State) (i : Reg) (v : Vector ProgAddr 16) :
    State.getReg { s with ras := v } i = s.getReg i := rfl
@[simp] theorem getReg_with_rsp (s : State) (i : Reg) (v : BitVec 4) :
    State.getReg { s with rsp := v } i = s.getReg i := rfl
@[simp] theorem getReg_with_acc (s : State) (i : Reg) (v : BitVec 32) :
    State.getReg { s with acc := v } i = s.getReg i := rfl
@[simp] theorem getReg_with_divq (s : State) (i : Reg) (v : Word) :
    State.getReg { s with divq := v } i = s.getReg i := rfl
@[simp] theorem getReg_with_divr (s : State) (i : Reg) (v : Word) :
    State.getReg { s with divr := v } i = s.getReg i := rfl
@[simp] theorem getReg_with_divd (s : State) (i : Reg) (v : Word) :
    State.getReg { s with divd := v } i = s.getReg i := rfl
@[simp] theorem getReg_with_divWait (s : State) (i : Reg) (v : Nat) :
    State.getReg { s with divWait := v } i = s.getReg i := rfl
@[simp] theorem getReg_with_mviLat (s : State) (i : Reg) (v : Option Reg) :
    State.getReg { s with mviLat := v } i = s.getReg i := rfl
@[simp] theorem getReg_with_rep (s : State) (i : Reg) (v : Nat) :
    State.getReg { s with rep := v } i = s.getReg i := rfl
@[simp] theorem getReg_with_io (s : State) (i : Reg) (v : List PortEvent) :
    State.getReg { s with io := v } i = s.getReg i := rfl
@[simp] theorem getReg_with_portIn (s : State) (i : Reg) (v : List Word) :
    State.getReg { s with portIn := v } i = s.getReg i := rfl
@[simp] theorem getReg_with_stored (s : State) (i : Reg) (v : List Nat) :
    State.getReg { s with stored := v } i = s.getReg i := rfl
@[simp] theorem getReg_with_drawn (s : State) (i : Reg) (v : Nat) :
    State.getReg { s with drawn := v } i = s.getReg i := rfl
@[simp] theorem getReg_with_cfg (s : State) (i : Reg) (v : Config) :
    State.getReg { s with cfg := v } i = s.getReg i := rfl

@[simp] theorem getReg_setReg_self (s : State) (r : Reg) (v : Word) : (s.setReg r v).getReg r = v := by
  simp [State.getReg]

theorem getReg_setReg_ne (s : State) {i r : Reg} (v : Word) (h : i ≠ r) : (s.setReg r v).getReg i = s.getReg i := by
  have hn : r.toNat ≠ i.toNat := fun e => h (BitVec.eq_of_toNat_eq e.symm)
  simp [State.getReg, hn]

/-- Registers are read from the register file alone. -/
theorem getReg_of_x_eq {s t : State} (h : t.x = s.x) (r : Reg) : t.getReg r = s.getReg r := by
  simp only [State.getReg, h]

/-- One spelling for a read after a write. -/
theorem getReg_setReg (s : State) (i r : Reg) (v : Word) :
    (s.setReg r v).getReg i = if i = r then v else s.getReg i := by
  by_cases h : i = r
  · subst h; simp
  · simp [getReg_setReg_ne s v h, h]

/-- A push is read back at the new pointer. -/
@[simp] theorem rasTop_rasPush (s : State) (v : ProgAddr) : (s.rasPush v).rasTop = v := by
  simp [State.rasTop]

/-- A drop after a push restores the pointer. -/
@[simp] theorem rsp_rasDrop_rasPush (s : State) (v : ProgAddr) : (s.rasPush v).rasDrop.rsp = s.rsp := by
  simp

@[simp] theorem divideBy_x (s : State) (n : Nat) (d : Word) : (s.divideBy n d).x = s.x := by
  unfold State.divideBy; split <;> rfl
@[simp] theorem divideBy_pc (s : State) (n : Nat) (d : Word) : (s.divideBy n d).pc = s.pc := by
  unfold State.divideBy; split <;> rfl
@[simp] theorem divideBy_flags (s : State) (n : Nat) (d : Word) : (s.divideBy n d).flags = s.flags := by
  unfold State.divideBy; split <;> rfl
@[simp] theorem divideBy_mem (s : State) (n : Nat) (d : Word) : (s.divideBy n d).mem = s.mem := by
  unfold State.divideBy; split <;> rfl
@[simp] theorem divideBy_ras (s : State) (n : Nat) (d : Word) : (s.divideBy n d).ras = s.ras := by
  unfold State.divideBy; split <;> rfl
@[simp] theorem divideBy_rsp (s : State) (n : Nat) (d : Word) : (s.divideBy n d).rsp = s.rsp := by
  unfold State.divideBy; split <;> rfl
@[simp] theorem divideBy_acc (s : State) (n : Nat) (d : Word) : (s.divideBy n d).acc = s.acc := by
  unfold State.divideBy; split <;> rfl
@[simp] theorem divideBy_divd (s : State) (n : Nat) (d : Word) : (s.divideBy n d).divd = s.divd := by
  unfold State.divideBy; split <;> rfl
@[simp] theorem divideBy_divWait (s : State) (n : Nat) (d : Word) : (s.divideBy n d).divWait = s.divWait := by
  unfold State.divideBy; split <;> rfl
@[simp] theorem divideBy_mviLat (s : State) (n : Nat) (d : Word) : (s.divideBy n d).mviLat = s.mviLat := by
  unfold State.divideBy; split <;> rfl
@[simp] theorem divideBy_rep (s : State) (n : Nat) (d : Word) : (s.divideBy n d).rep = s.rep := by
  unfold State.divideBy; split <;> rfl
@[simp] theorem divideBy_io (s : State) (n : Nat) (d : Word) : (s.divideBy n d).io = s.io := by
  unfold State.divideBy; split <;> rfl
@[simp] theorem divideBy_portIn (s : State) (n : Nat) (d : Word) : (s.divideBy n d).portIn = s.portIn := by
  unfold State.divideBy; split <;> rfl
@[simp] theorem divideBy_stored (s : State) (n : Nat) (d : Word) : (s.divideBy n d).stored = s.stored := by
  unfold State.divideBy; split <;> rfl
@[simp] theorem divideBy_cfg (s : State) (n : Nat) (d : Word) : (s.divideBy n d).cfg = s.cfg := by
  unfold State.divideBy; split <;> rfl
@[simp] theorem getReg_divideBy (s : State) (n : Nat) (d : Word) (i : Reg) : (s.divideBy n d).getReg i = s.getReg i := by
  unfold State.divideBy; split <;> rfl

/-- R271, R272. By a divisor that is not zero, the divider holds quotient and remainder. -/
theorem divideBy_of_ne (s : State) (n : Nat) {d : Word} (h : d ≠ 0#16) :
    (s.divideBy n d).divq = BitVec.ofNat 16 (n / d.toNat) ∧ (s.divideBy n d).divr = BitVec.ofNat 16 (n % d.toNat) ∧
      (s.divideBy n d).drawn = s.drawn := by
  simp [State.divideBy, h]

end Sys2Proof.Machine
end

