-- ==== Sys2Proof/Laws/Ops.lean ====
section
/-! SUPPORT. For each shared operation, once, everything it can answer: if it answers `next t`, which case holds. The
proofs about instructions cite these instead of unfolding the operations. -/

namespace Sys2Proof.Machine

/-- The end of an instruction always answers a next state. -/
@[simp] theorem finish_eq (s : State) : finish s = .next (retire (seqPc s) s) := rfl

@[simp] theorem goTo_eq (target : ProgAddr) (s : State) : goTo target s = .next (retire target s) := rfl

@[simp] theorem andThen_next {α : Type} (a : α) (k : α → Result) : andThen (.next a) k = k a := rfl

/-- What a sequence of two operations that answers a next state has done. -/
theorem andThen_eq_next {α : Type} {o : Host.Outcome α Fault Refusal} {k : α → Result} {t : State}
    (h : andThen o k = .next t) : ∃ a, o = .next a ∧ k a = .next t := by
  cases o with
  | next a => exact ⟨a, rfl, h⟩
  | fault r => cases h
  | refused r => cases h

theorem unlessRep_eq_next {s t : State} {r : Result} (h : unlessRep s r = .next t) : s.rep = 0 ∧ r = .next t := by
  unfold unlessRep at h
  split at h
  · next h0 => exact ⟨h0, h⟩
  · cases h

@[simp] theorem unlessRep_of {s : State} (r : Result) (h : s.rep = 0) : unlessRep s r = r := by
  simp [unlessRep, h]

theorem needMac_eq_next {s t : State} {r : Result} (h : needMac s r = .next t) : s.cfg.hasMac = true ∧ r = .next t := by
  unfold needMac at h
  split at h
  · next h0 => exact ⟨h0, h⟩
  · cases h

theorem needDiv_eq_next {s t : State} {r : Result} (h : needDiv s r = .next t) : s.cfg.hasDiv = true ∧ r = .next t := by
  unfold needDiv at h
  split at h
  · next h0 => exact ⟨h0, h⟩
  · cases h

theorem writeReg_eq (a : Reg) (v : Word) (s : State) : writeReg a v s = .next (retire (seqPc s) (s.setReg a v)) := rfl

theorem writeSum_eq (a : Reg) (u : Sum) (s : State) :
    writeSum a u s = .next (retire (seqPc s) ((s.setReg a u.r).setFlags u.flags)) := rfl

theorem writeSumFlags_eq (u : Sum) (s : State) :
    writeSumFlags u s = .next (retire (seqPc s) (s.setFlags u.flags)) := rfl

theorem writeC_eq (c : Bool) (s : State) : writeC c s = .next (retire (seqPc s) (s.setC c)) := rfl

theorem addImmediate_eq (a : Reg) (imm : BitVec 8) (s : State) :
    addImmediate a imm s = writeSum a (add16 (s.getReg a) (signExtend8 imm) false) s := rfl

theorem compareImmediate_eq (a : Reg) (imm : BitVec 8) (s : State) :
    compareImmediate a imm s = writeSumFlags (s.sub16 (s.getReg a) (signExtend8 imm) false) s := rfl

theorem shiftRight_eq (a : Reg) (k : BitVec 4) (s : State) :
    shiftRight a k s =
      .next (retire (seqPc s) ((s.setReg a (shiftRight1 (shiftIn k (s.getReg a) s.flags.c) (s.getReg a))).setC
        (carryOut k (s.getReg a)))) := rfl

theorem shiftLeft_eq (a : Reg) (k : BitVec 4) (s : State) :
    shiftLeft a k s =
      .next (retire (seqPc s) ((s.setReg a (shiftLeft1 (s.getReg a) (shiftIn k (s.getReg a) s.flags.c))).setC
        (carryOut k (s.getReg a)))) := rfl

/-- R103, R110. A jump that answers: taken with no repetition pending, or not taken. -/
theorem jumpOn_eq_next {cc : Cond} {rel : BitVec 9} {s t : State} (h : jumpOn cc rel s = .next t) :
    (condHolds cc s.flags = true ∧ s.rep = 0 ∧ t = retire (jumpTarget s.pc rel) s) ∨
      (condHolds cc s.flags = false ∧ t = retire (seqPc s) s) := by
  unfold jumpOn at h
  split at h
  · next hc =>
    obtain ⟨h0, h1⟩ := unlessRep_eq_next h
    cases h1
    exact .inl ⟨hc, h0, rfl⟩
  · next hc => cases h; exact .inr ⟨by simpa using hc, rfl⟩

/-- R105, R110. A return that answers. -/
theorem returnOn_eq_next {cc : Cond} {s t : State} (h : returnOn cc s = .next t) :
    (condHolds cc s.flags = true ∧ s.rep = 0 ∧ t = retire s.rasTop s.rasDrop) ∨
      (condHolds cc s.flags = false ∧ t = retire (seqPc s) s) := by
  unfold returnOn at h
  split at h
  · next hc =>
    obtain ⟨h0, h1⟩ := unlessRep_eq_next h
    cases h1
    exact .inl ⟨hc, h0, rfl⟩
  · next hc => cases h; exact .inr ⟨by simpa using hc, rfl⟩

/-- R106, R110. A loop that answers: no repetition is pending; it loops, or it exits and drops the address. -/
theorem loopOn_eq_next {cc : Cond} {s t : State} (h : loopOn cc s = .next t) :
    s.rep = 0 ∧
      ((condHolds cc s.flags = true ∧ t = retire s.rasTop s) ∨
        (condHolds cc s.flags = false ∧ t = retire (seqPc s.rasDrop) s.rasDrop)) := by
  obtain ⟨h0, h1⟩ := unlessRep_eq_next h
  refine ⟨h0, ?_⟩
  split at h1
  · next hc => cases h1; exact .inl ⟨hc, rfl⟩
  · next hc => cases h1; exact .inr ⟨by simpa using hc, rfl⟩

/-- R109. A REP that answers. -/
theorem repeatNext_eq_next {count : BitVec 8} {s t : State} (h : repeatNext count s = .next t) :
    s.rep = 0 ∧ t = { retire (s.pc + 1) s with rep := count.toNat + 2 } := by
  obtain ⟨h0, h1⟩ := unlessRep_eq_next h
  cases h1
  exact ⟨h0, rfl⟩

/-- R137. An exchange that answers: the address exists, the word held a value, and the two are exchanged. -/
theorem exchange_eq_next {a : Reg} {addr : Word} {s t : State} (h : exchange a addr s = .next t) :
    ∃ old, addr.toNat < s.cfg.memWords ∧ Memory.readWord s.mem addr = some old ∧
      t = retire (seqPc s)
        (State.setReg
          { s with mem := Memory.writeWord s.mem addr (s.getReg a), stored := addAddr s.stored addr.toNat } a old) := by
  obtain ⟨old, ho, h1⟩ := andThen_eq_next h
  obtain ⟨u, hu, h2⟩ := andThen_eq_next h1
  obtain ⟨ha, hv⟩ := loadWord_next ho
  obtain ⟨_, rfl⟩ := storeWord_next hu
  cases h2
  exact ⟨old, ha, hv, rfl⟩

/-- R250. An instruction that writes the accumulator and answers. -/
theorem writeAcc_eq_next {v : Int} {s t : State} (h : writeAcc v s = .next t) :
    s.cfg.hasMac = true ∧ t = retire (seqPc s) { s with acc := BitVec.ofInt 32 v } := by
  obtain ⟨h0, h1⟩ := needMac_eq_next h
  cases h1
  exact ⟨h0, rfl⟩

/-- R270. A division that starts: the divider is there and idle. -/
theorem startDivision_eq_next {wait : Nat} {s s' t : State} (h : startDivision wait s s' = .next t) :
    s.cfg.hasDiv = true ∧ s.divWait = 0 ∧ t = { retire (seqPc s) s' with divWait := wait } := by
  obtain ⟨h0, h1⟩ := needDiv_eq_next h
  split at h1
  · next hw => cases h1; exact ⟨h0, hw, rfl⟩
  · cases h1

/-- R273 to R275. A read of the divider that answers: what it holds when it is idle, else the free value. -/
theorem readDivider_eq_next {a : Reg} {done busy : Word} {s t : State} (h : readDivider a done busy s = .next t) :
    s.cfg.hasDiv = true ∧
      ((s.divWait = 0 ∧ t = retire (seqPc s) (s.setReg a done)) ∨
        (s.divWait ≠ 0 ∧ t = retire (seqPc s) (State.setReg { s with drawn := s.drawn + 1 } a busy))) := by
  obtain ⟨h0, h1⟩ := needDiv_eq_next h
  refine ⟨h0, ?_⟩
  split at h1
  · next hw => cases h1; exact .inl ⟨hw, rfl⟩
  · next hw => cases h1; exact .inr ⟨hw, rfl⟩

/-- With no repetition pending, `seq` is the next address. -/
theorem seqPc_of_rep_zero {s : State} (h : s.rep = 0) : seqPc s = s.pc + 1 := by
  simp [seqPc, h]

end Sys2Proof.Machine
end

