-- ==== Sys2Proof/Laws/PerInstr.lean ====
section
/-! SUPPORT. The family WordIsCanonical, for all instructions: the machine instruction an instruction stands for is a
machine instruction, well formed, and has the same word (47_stack_and_pseudo.md R290 to R292, R299). -/

namespace Sys2Proof.Laws.WordIsCanonical

/-- A well-formed instruction and the machine instruction it stands for have one word. -/
def Statement (i : Instr) : Prop :=
  i.wf = true → i.canon.wf = true ∧ i.canon.canon = i.canon ∧ encode i.canon = encode i

/-- The parts, from the one that needs a proof. -/
theorem intro {i : Instr} (h : encode i.canon = encode i) (hw : i.canon.wf = true) (hc : i.canon.canon = i.canon) :
    Statement i := fun _ => ⟨hw, hc, h⟩

end Sys2Proof.Laws.WordIsCanonical

theorem Sys2Proof.Laws.WordIsCanonical.call (target : Sys2Proof.ProgAddr) : Statement (.call target) :=
  Sys2Proof.Laws.WordIsCanonical.intro rfl rfl rfl

theorem Sys2Proof.Laws.WordIsCanonical.jmp (cc : Sys2Proof.Cond) (rel : BitVec 9) : Statement (.jmp cc rel) :=
  Sys2Proof.Laws.WordIsCanonical.intro rfl rfl rfl

theorem Sys2Proof.Laws.WordIsCanonical.ret (cc : Sys2Proof.Cond) : Statement (.ret cc) :=
  Sys2Proof.Laws.WordIsCanonical.intro rfl rfl rfl

theorem Sys2Proof.Laws.WordIsCanonical.loop (cc : Sys2Proof.Cond) : Statement (.loop cc) :=
  Sys2Proof.Laws.WordIsCanonical.intro rfl rfl rfl

theorem Sys2Proof.Laws.WordIsCanonical.mark : Statement (.mark) :=
  Sys2Proof.Laws.WordIsCanonical.intro rfl rfl rfl

theorem Sys2Proof.Laws.WordIsCanonical.stra (a : Sys2Proof.Reg) : Statement (.stra a) :=
  Sys2Proof.Laws.WordIsCanonical.intro rfl rfl rfl

theorem Sys2Proof.Laws.WordIsCanonical.rep (count : BitVec 8) : Statement (.rep count) :=
  Sys2Proof.Laws.WordIsCanonical.intro rfl rfl rfl

theorem Sys2Proof.Laws.WordIsCanonical.mvi (a : Sys2Proof.Reg) (imm : BitVec 8) : Statement (.mvi a imm) :=
  Sys2Proof.Laws.WordIsCanonical.intro rfl rfl rfl

theorem Sys2Proof.Laws.WordIsCanonical.out (a : Sys2Proof.Reg) (port : Sys2Proof.Port) : Statement (.out a port) :=
  Sys2Proof.Laws.WordIsCanonical.intro rfl rfl rfl

theorem Sys2Proof.Laws.WordIsCanonical.inp (a : Sys2Proof.Reg) (port : Sys2Proof.Port) : Statement (.inp a port) :=
  Sys2Proof.Laws.WordIsCanonical.intro rfl rfl rfl

theorem Sys2Proof.Laws.WordIsCanonical.wr (a b : Sys2Proof.Reg) : Statement (.wr a b) :=
  Sys2Proof.Laws.WordIsCanonical.intro rfl rfl rfl

theorem Sys2Proof.Laws.WordIsCanonical.rd (a b : Sys2Proof.Reg) : Statement (.rd a b) :=
  Sys2Proof.Laws.WordIsCanonical.intro rfl rfl rfl

theorem Sys2Proof.Laws.WordIsCanonical.xchg (a b : Sys2Proof.Reg) : Statement (.xchg a b) :=
  Sys2Proof.Laws.WordIsCanonical.intro rfl rfl rfl

theorem Sys2Proof.Laws.WordIsCanonical.noAccess : Statement (.noAccess) :=
  Sys2Proof.Laws.WordIsCanonical.intro rfl rfl rfl

theorem Sys2Proof.Laws.WordIsCanonical.adi (a : Sys2Proof.Reg) (imm : BitVec 8) : Statement (.adi a imm) :=
  Sys2Proof.Laws.WordIsCanonical.intro rfl rfl rfl

theorem Sys2Proof.Laws.WordIsCanonical.cpi (a : Sys2Proof.Reg) (imm : BitVec 8) : Statement (.cpi a imm) :=
  Sys2Proof.Laws.WordIsCanonical.intro rfl rfl rfl

theorem Sys2Proof.Laws.WordIsCanonical.clc : Statement (.clc) :=
  Sys2Proof.Laws.WordIsCanonical.intro rfl rfl rfl

theorem Sys2Proof.Laws.WordIsCanonical.stc : Statement (.stc) :=
  Sys2Proof.Laws.WordIsCanonical.intro rfl rfl rfl

theorem Sys2Proof.Laws.WordIsCanonical.cmp (a b : Sys2Proof.Reg) : Statement (.cmp a b) :=
  Sys2Proof.Laws.WordIsCanonical.intro rfl rfl rfl

theorem Sys2Proof.Laws.WordIsCanonical.cmpc (a b : Sys2Proof.Reg) : Statement (.cmpc a b) :=
  Sys2Proof.Laws.WordIsCanonical.intro rfl rfl rfl

theorem Sys2Proof.Laws.WordIsCanonical.mov (a b : Sys2Proof.Reg) : Statement (.mov a b) :=
  Sys2Proof.Laws.WordIsCanonical.intro rfl rfl rfl

theorem Sys2Proof.Laws.WordIsCanonical.mvn (a b : Sys2Proof.Reg) : Statement (.mvn a b) :=
  Sys2Proof.Laws.WordIsCanonical.intro rfl rfl rfl

theorem Sys2Proof.Laws.WordIsCanonical.add (a b : Sys2Proof.Reg) : Statement (.add a b) :=
  Sys2Proof.Laws.WordIsCanonical.intro rfl rfl rfl

theorem Sys2Proof.Laws.WordIsCanonical.sub (a b : Sys2Proof.Reg) : Statement (.sub a b) :=
  Sys2Proof.Laws.WordIsCanonical.intro rfl rfl rfl

theorem Sys2Proof.Laws.WordIsCanonical.movc (a b : Sys2Proof.Reg) : Statement (.movc a b) :=
  Sys2Proof.Laws.WordIsCanonical.intro rfl rfl rfl

theorem Sys2Proof.Laws.WordIsCanonical.mvnc (a b : Sys2Proof.Reg) : Statement (.mvnc a b) :=
  Sys2Proof.Laws.WordIsCanonical.intro rfl rfl rfl

theorem Sys2Proof.Laws.WordIsCanonical.adc (a b : Sys2Proof.Reg) : Statement (.adc a b) :=
  Sys2Proof.Laws.WordIsCanonical.intro rfl rfl rfl

theorem Sys2Proof.Laws.WordIsCanonical.sbc (a b : Sys2Proof.Reg) : Statement (.sbc a b) :=
  Sys2Proof.Laws.WordIsCanonical.intro rfl rfl rfl

theorem Sys2Proof.Laws.WordIsCanonical.mov8 (a b : Sys2Proof.Reg) : Statement (.mov8 a b) :=
  Sys2Proof.Laws.WordIsCanonical.intro rfl rfl rfl

theorem Sys2Proof.Laws.WordIsCanonical.mvn8 (a b : Sys2Proof.Reg) : Statement (.mvn8 a b) :=
  Sys2Proof.Laws.WordIsCanonical.intro rfl rfl rfl

theorem Sys2Proof.Laws.WordIsCanonical.add8 (a b : Sys2Proof.Reg) : Statement (.add8 a b) :=
  Sys2Proof.Laws.WordIsCanonical.intro rfl rfl rfl

theorem Sys2Proof.Laws.WordIsCanonical.sub8 (a b : Sys2Proof.Reg) : Statement (.sub8 a b) :=
  Sys2Proof.Laws.WordIsCanonical.intro rfl rfl rfl

theorem Sys2Proof.Laws.WordIsCanonical.mov4 (a b : Sys2Proof.Reg) : Statement (.mov4 a b) :=
  Sys2Proof.Laws.WordIsCanonical.intro rfl rfl rfl

theorem Sys2Proof.Laws.WordIsCanonical.mvn4 (a b : Sys2Proof.Reg) : Statement (.mvn4 a b) :=
  Sys2Proof.Laws.WordIsCanonical.intro rfl rfl rfl

theorem Sys2Proof.Laws.WordIsCanonical.add4 (a b : Sys2Proof.Reg) : Statement (.add4 a b) :=
  Sys2Proof.Laws.WordIsCanonical.intro rfl rfl rfl

theorem Sys2Proof.Laws.WordIsCanonical.sub4 (a b : Sys2Proof.Reg) : Statement (.sub4 a b) :=
  Sys2Proof.Laws.WordIsCanonical.intro rfl rfl rfl

theorem Sys2Proof.Laws.WordIsCanonical.not (a b : Sys2Proof.Reg) : Statement (.not a b) :=
  Sys2Proof.Laws.WordIsCanonical.intro rfl rfl rfl

theorem Sys2Proof.Laws.WordIsCanonical.and (a b : Sys2Proof.Reg) : Statement (.and a b) :=
  Sys2Proof.Laws.WordIsCanonical.intro rfl rfl rfl

theorem Sys2Proof.Laws.WordIsCanonical.or (a b : Sys2Proof.Reg) : Statement (.or a b) :=
  Sys2Proof.Laws.WordIsCanonical.intro rfl rfl rfl

theorem Sys2Proof.Laws.WordIsCanonical.xor (a b : Sys2Proof.Reg) : Statement (.xor a b) :=
  Sys2Proof.Laws.WordIsCanonical.intro rfl rfl rfl

theorem Sys2Proof.Laws.WordIsCanonical.mask (a : Sys2Proof.Reg) (k : BitVec 4) : Statement (.mask a k) :=
  Sys2Proof.Laws.WordIsCanonical.intro rfl rfl rfl

theorem Sys2Proof.Laws.WordIsCanonical.rst (a : Sys2Proof.Reg) (k : BitVec 4) : Statement (.rst a k) :=
  Sys2Proof.Laws.WordIsCanonical.intro rfl rfl rfl

theorem Sys2Proof.Laws.WordIsCanonical.setb (a : Sys2Proof.Reg) (k : BitVec 4) : Statement (.setb a k) :=
  Sys2Proof.Laws.WordIsCanonical.intro rfl rfl rfl

theorem Sys2Proof.Laws.WordIsCanonical.inv (a : Sys2Proof.Reg) (k : BitVec 4) : Statement (.inv a k) :=
  Sys2Proof.Laws.WordIsCanonical.intro rfl rfl rfl

theorem Sys2Proof.Laws.WordIsCanonical.btst (a : Sys2Proof.Reg) (k : BitVec 4) : Statement (.btst a k) :=
  Sys2Proof.Laws.WordIsCanonical.intro rfl rfl rfl

theorem Sys2Proof.Laws.WordIsCanonical.mlls (a b : Sys2Proof.Reg) : Statement (.mlls a b) :=
  Sys2Proof.Laws.WordIsCanonical.intro rfl rfl rfl

theorem Sys2Proof.Laws.WordIsCanonical.mhls (a b : Sys2Proof.Reg) : Statement (.mhls a b) :=
  Sys2Proof.Laws.WordIsCanonical.intro rfl rfl rfl

theorem Sys2Proof.Laws.WordIsCanonical.ins4 (a b : Sys2Proof.Reg) : Statement (.ins4 a b) :=
  Sys2Proof.Laws.WordIsCanonical.intro rfl rfl rfl

theorem Sys2Proof.Laws.WordIsCanonical.ins8 (a b : Sys2Proof.Reg) : Statement (.ins8 a b) :=
  Sys2Proof.Laws.WordIsCanonical.intro rfl rfl rfl

theorem Sys2Proof.Laws.WordIsCanonical.in12 (a b : Sys2Proof.Reg) : Statement (.in12 a b) :=
  Sys2Proof.Laws.WordIsCanonical.intro rfl rfl rfl

theorem Sys2Proof.Laws.WordIsCanonical.rev (a b : Sys2Proof.Reg) : Statement (.rev a b) :=
  Sys2Proof.Laws.WordIsCanonical.intro rfl rfl rfl

theorem Sys2Proof.Laws.WordIsCanonical.shr (a : Sys2Proof.Reg) (k : BitVec 4) : Statement (.shr a k) :=
  Sys2Proof.Laws.WordIsCanonical.intro rfl rfl rfl

theorem Sys2Proof.Laws.WordIsCanonical.shl (a : Sys2Proof.Reg) (k : BitVec 4) : Statement (.shl a k) :=
  Sys2Proof.Laws.WordIsCanonical.intro rfl rfl rfl

theorem Sys2Proof.Laws.WordIsCanonical.umul (a b : Sys2Proof.Reg) : Statement (.umul a b) :=
  Sys2Proof.Laws.WordIsCanonical.intro rfl rfl rfl

theorem Sys2Proof.Laws.WordIsCanonical.umln (a b : Sys2Proof.Reg) : Statement (.umln a b) :=
  Sys2Proof.Laws.WordIsCanonical.intro rfl rfl rfl

theorem Sys2Proof.Laws.WordIsCanonical.umac (a b : Sys2Proof.Reg) : Statement (.umac a b) :=
  Sys2Proof.Laws.WordIsCanonical.intro rfl rfl rfl

theorem Sys2Proof.Laws.WordIsCanonical.umsb (a b : Sys2Proof.Reg) : Statement (.umsb a b) :=
  Sys2Proof.Laws.WordIsCanonical.intro rfl rfl rfl

theorem Sys2Proof.Laws.WordIsCanonical.mul (a b : Sys2Proof.Reg) : Statement (.mul a b) :=
  Sys2Proof.Laws.WordIsCanonical.intro rfl rfl rfl

theorem Sys2Proof.Laws.WordIsCanonical.muln (a b : Sys2Proof.Reg) : Statement (.muln a b) :=
  Sys2Proof.Laws.WordIsCanonical.intro rfl rfl rfl

theorem Sys2Proof.Laws.WordIsCanonical.mac (a b : Sys2Proof.Reg) : Statement (.mac a b) :=
  Sys2Proof.Laws.WordIsCanonical.intro rfl rfl rfl

theorem Sys2Proof.Laws.WordIsCanonical.msub (a b : Sys2Proof.Reg) : Statement (.msub a b) :=
  Sys2Proof.Laws.WordIsCanonical.intro rfl rfl rfl

theorem Sys2Proof.Laws.WordIsCanonical.lpl (a : Sys2Proof.Reg) : Statement (.lpl a) :=
  Sys2Proof.Laws.WordIsCanonical.intro rfl rfl rfl

theorem Sys2Proof.Laws.WordIsCanonical.lph (a : Sys2Proof.Reg) : Statement (.lph a) :=
  Sys2Proof.Laws.WordIsCanonical.intro rfl rfl rfl

theorem Sys2Proof.Laws.WordIsCanonical.idiv (a b : Sys2Proof.Reg) : Statement (.idiv a b) :=
  Sys2Proof.Laws.WordIsCanonical.intro rfl rfl rfl

theorem Sys2Proof.Laws.WordIsCanonical.fdiv : Statement (.fdiv) :=
  Sys2Proof.Laws.WordIsCanonical.intro rfl rfl rfl

theorem Sys2Proof.Laws.WordIsCanonical.lq (a : Sys2Proof.Reg) : Statement (.lq a) :=
  Sys2Proof.Laws.WordIsCanonical.intro rfl rfl rfl

theorem Sys2Proof.Laws.WordIsCanonical.lr (a : Sys2Proof.Reg) : Statement (.lr a) :=
  Sys2Proof.Laws.WordIsCanonical.intro rfl rfl rfl

theorem Sys2Proof.Laws.WordIsCanonical.jmpAlways (rel : BitVec 9) : Statement (.jmpAlways rel) :=
  Sys2Proof.Laws.WordIsCanonical.intro (congrArg Sys2Proof.wordOf (by simp [Sys2Proof.Cond.code])) rfl rfl

theorem Sys2Proof.Laws.WordIsCanonical.nop (rel : BitVec 9) : Statement (.nop rel) :=
  Sys2Proof.Laws.WordIsCanonical.intro rfl rfl rfl

theorem Sys2Proof.Laws.WordIsCanonical.jv (rel : BitVec 9) : Statement (.jv rel) :=
  Sys2Proof.Laws.WordIsCanonical.intro (congrArg Sys2Proof.wordOf (by simp [Sys2Proof.Cond.code])) rfl rfl

theorem Sys2Proof.Laws.WordIsCanonical.jnv (rel : BitVec 9) : Statement (.jnv rel) :=
  Sys2Proof.Laws.WordIsCanonical.intro (congrArg Sys2Proof.wordOf (by simp [Sys2Proof.Cond.code])) rfl rfl

theorem Sys2Proof.Laws.WordIsCanonical.jz (rel : BitVec 9) : Statement (.jz rel) :=
  Sys2Proof.Laws.WordIsCanonical.intro (congrArg Sys2Proof.wordOf (by simp [Sys2Proof.Cond.code])) rfl rfl

theorem Sys2Proof.Laws.WordIsCanonical.jnz (rel : BitVec 9) : Statement (.jnz rel) :=
  Sys2Proof.Laws.WordIsCanonical.intro (congrArg Sys2Proof.wordOf (by simp [Sys2Proof.Cond.code])) rfl rfl

theorem Sys2Proof.Laws.WordIsCanonical.jc (rel : BitVec 9) : Statement (.jc rel) :=
  Sys2Proof.Laws.WordIsCanonical.intro (congrArg Sys2Proof.wordOf (by simp [Sys2Proof.Cond.code])) rfl rfl

theorem Sys2Proof.Laws.WordIsCanonical.jnc (rel : BitVec 9) : Statement (.jnc rel) :=
  Sys2Proof.Laws.WordIsCanonical.intro (congrArg Sys2Proof.wordOf (by simp [Sys2Proof.Cond.code])) rfl rfl

theorem Sys2Proof.Laws.WordIsCanonical.retAlways : Statement (.retAlways) :=
  Sys2Proof.Laws.WordIsCanonical.intro (by decide) rfl rfl

theorem Sys2Proof.Laws.WordIsCanonical.retNever : Statement (.retNever) :=
  Sys2Proof.Laws.WordIsCanonical.intro (by decide) rfl rfl

theorem Sys2Proof.Laws.WordIsCanonical.rv : Statement (.rv) :=
  Sys2Proof.Laws.WordIsCanonical.intro (by decide) rfl rfl

theorem Sys2Proof.Laws.WordIsCanonical.rnv : Statement (.rnv) :=
  Sys2Proof.Laws.WordIsCanonical.intro (by decide) rfl rfl

theorem Sys2Proof.Laws.WordIsCanonical.rz : Statement (.rz) :=
  Sys2Proof.Laws.WordIsCanonical.intro (by decide) rfl rfl

theorem Sys2Proof.Laws.WordIsCanonical.rnz : Statement (.rnz) :=
  Sys2Proof.Laws.WordIsCanonical.intro (by decide) rfl rfl

theorem Sys2Proof.Laws.WordIsCanonical.rc : Statement (.rc) :=
  Sys2Proof.Laws.WordIsCanonical.intro (by decide) rfl rfl

theorem Sys2Proof.Laws.WordIsCanonical.rnc : Statement (.rnc) :=
  Sys2Proof.Laws.WordIsCanonical.intro (by decide) rfl rfl

theorem Sys2Proof.Laws.WordIsCanonical.loopAlways : Statement (.loopAlways) :=
  Sys2Proof.Laws.WordIsCanonical.intro (by decide) rfl rfl

theorem Sys2Proof.Laws.WordIsCanonical.loopNever : Statement (.loopNever) :=
  Sys2Proof.Laws.WordIsCanonical.intro (by decide) rfl rfl

theorem Sys2Proof.Laws.WordIsCanonical.lv : Statement (.lv) :=
  Sys2Proof.Laws.WordIsCanonical.intro (by decide) rfl rfl

theorem Sys2Proof.Laws.WordIsCanonical.lnv : Statement (.lnv) :=
  Sys2Proof.Laws.WordIsCanonical.intro (by decide) rfl rfl

theorem Sys2Proof.Laws.WordIsCanonical.lz : Statement (.lz) :=
  Sys2Proof.Laws.WordIsCanonical.intro (by decide) rfl rfl

theorem Sys2Proof.Laws.WordIsCanonical.lnz : Statement (.lnz) :=
  Sys2Proof.Laws.WordIsCanonical.intro (by decide) rfl rfl

theorem Sys2Proof.Laws.WordIsCanonical.lc : Statement (.lc) :=
  Sys2Proof.Laws.WordIsCanonical.intro (by decide) rfl rfl

theorem Sys2Proof.Laws.WordIsCanonical.lnc : Statement (.lnc) :=
  Sys2Proof.Laws.WordIsCanonical.intro (by decide) rfl rfl

theorem Sys2Proof.Laws.WordIsCanonical.rpt (count : BitVec 8) : Statement (.rpt count) :=
  Sys2Proof.Laws.WordIsCanonical.intro rfl rfl rfl

theorem Sys2Proof.Laws.WordIsCanonical.sbi (a : Sys2Proof.Reg) (c : Int) : Statement (.sbi a c) :=
  Sys2Proof.Laws.WordIsCanonical.intro rfl rfl rfl

theorem Sys2Proof.Laws.WordIsCanonical.inc (a : Sys2Proof.Reg) : Statement (.inc a) :=
  Sys2Proof.Laws.WordIsCanonical.intro (congrArg Sys2Proof.wordOf (by simp)) rfl rfl

theorem Sys2Proof.Laws.WordIsCanonical.dec (a : Sys2Proof.Reg) : Statement (.dec a) :=
  Sys2Proof.Laws.WordIsCanonical.intro (congrArg Sys2Proof.wordOf (by simp)) rfl rfl

theorem Sys2Proof.Laws.WordIsCanonical.cpz (a : Sys2Proof.Reg) : Statement (.cpz a) :=
  Sys2Proof.Laws.WordIsCanonical.intro (congrArg Sys2Proof.wordOf (by simp)) rfl rfl

theorem Sys2Proof.Laws.WordIsCanonical.xtos (a : Sys2Proof.Reg) : Statement (.xtos a) :=
  Sys2Proof.Laws.WordIsCanonical.intro (congrArg Sys2Proof.wordOf (by simp)) rfl rfl

theorem Sys2Proof.Laws.WordIsCanonical.neg (a : Sys2Proof.Reg) : Statement (.neg a) :=
  Sys2Proof.Laws.WordIsCanonical.intro (congrArg Sys2Proof.wordOf (by simp; omega)) rfl rfl

theorem Sys2Proof.Laws.WordIsCanonical.negc (a : Sys2Proof.Reg) : Statement (.negc a) :=
  Sys2Proof.Laws.WordIsCanonical.intro (congrArg Sys2Proof.wordOf (by simp; omega)) rfl rfl

theorem Sys2Proof.Laws.WordIsCanonical.neg8 (a : Sys2Proof.Reg) : Statement (.neg8 a) :=
  Sys2Proof.Laws.WordIsCanonical.intro (congrArg Sys2Proof.wordOf (by simp; omega)) rfl rfl

theorem Sys2Proof.Laws.WordIsCanonical.neg4 (a : Sys2Proof.Reg) : Statement (.neg4 a) :=
  Sys2Proof.Laws.WordIsCanonical.intro (congrArg Sys2Proof.wordOf (by simp; omega)) rfl rfl

theorem Sys2Proof.Laws.WordIsCanonical.sxl (a : Sys2Proof.Reg) : Statement (.sxl a) :=
  Sys2Proof.Laws.WordIsCanonical.intro (congrArg Sys2Proof.wordOf (by simp; omega)) rfl rfl

theorem Sys2Proof.Laws.WordIsCanonical.sxh (a : Sys2Proof.Reg) : Statement (.sxh a) :=
  Sys2Proof.Laws.WordIsCanonical.intro (congrArg Sys2Proof.wordOf (by simp; omega)) rfl rfl

theorem Sys2Proof.Laws.WordIsCanonical.ror4 (a : Sys2Proof.Reg) : Statement (.ror4 a) :=
  Sys2Proof.Laws.WordIsCanonical.intro (congrArg Sys2Proof.wordOf (by simp; omega)) rfl rfl

theorem Sys2Proof.Laws.WordIsCanonical.swap (a : Sys2Proof.Reg) : Statement (.swap a) :=
  Sys2Proof.Laws.WordIsCanonical.intro (congrArg Sys2Proof.wordOf (by simp; omega)) rfl rfl

theorem Sys2Proof.Laws.WordIsCanonical.rol4 (a : Sys2Proof.Reg) : Statement (.rol4 a) :=
  Sys2Proof.Laws.WordIsCanonical.intro (congrArg Sys2Proof.wordOf (by simp; omega)) rfl rfl

theorem Sys2Proof.Laws.WordIsCanonical.ror (a : Sys2Proof.Reg) : Statement (.ror a) :=
  Sys2Proof.Laws.WordIsCanonical.intro (congrArg Sys2Proof.wordOf (by simp)) rfl rfl

theorem Sys2Proof.Laws.WordIsCanonical.asr (a : Sys2Proof.Reg) : Statement (.asr a) :=
  Sys2Proof.Laws.WordIsCanonical.intro (congrArg Sys2Proof.wordOf (by simp)) rfl rfl

theorem Sys2Proof.Laws.WordIsCanonical.rrc (a : Sys2Proof.Reg) : Statement (.rrc a) :=
  Sys2Proof.Laws.WordIsCanonical.intro (congrArg Sys2Proof.wordOf (by simp)) rfl rfl

theorem Sys2Proof.Laws.WordIsCanonical.lsr (a : Sys2Proof.Reg) : Statement (.lsr a) :=
  Sys2Proof.Laws.WordIsCanonical.intro (congrArg Sys2Proof.wordOf (by simp)) rfl rfl

theorem Sys2Proof.Laws.WordIsCanonical.rol (a : Sys2Proof.Reg) : Statement (.rol a) :=
  Sys2Proof.Laws.WordIsCanonical.intro (congrArg Sys2Proof.wordOf (by simp)) rfl rfl

theorem Sys2Proof.Laws.WordIsCanonical.rlc (a : Sys2Proof.Reg) : Statement (.rlc a) :=
  Sys2Proof.Laws.WordIsCanonical.intro (congrArg Sys2Proof.wordOf (by simp)) rfl rfl

theorem Sys2Proof.Laws.WordIsCanonical.lsl (a : Sys2Proof.Reg) : Statement (.lsl a) :=
  Sys2Proof.Laws.WordIsCanonical.intro (congrArg Sys2Proof.wordOf (by simp)) rfl rfl
end

