-- ==== Sys2Proof/Tests/Slice0.lean ====
section
/-! SUPPORT. Own tests: the well-formedness check, every constructor's decoding from its word, one step of each
instruction, and a state that meets the hypotheses of each statement. Expected results are those of
spec/95_test_vectors.md or worked out from the rule named; a decoding's word is written from the rule's encoding. -/

namespace Sys2Proof.Tests

open Sys2Proof.Machine Sys2Proof.Claims

/-! Helpers. -/

/-- Flags from C, V and Z. -/
def cvz (c v z : Bool) : Flags := { c := c, v := v, z := z }

/-- The state after reset with `pc` = 0x0010, R1, R2 and the flags as given. -/
def st (r1 r2 : Word) (f : Flags) : State :=
  ((State.reset.setReg 1 r1).setReg 2 r2).setFlags f |> fun s => { s with pc := 0x10 }

/-- The same machine with C in the other sense. -/
def noBorrow (s : State) : State := { s with cfg := { s.cfg with carryIsBorrow := false } }

/-- The state an outcome goes on with. -/
def after (r : Result) : Option State :=
  match r with
  | .next t => some t
  | _ => none

/-- The name an outcome is refused by. -/
def refusal (r : Result) : Option Refusal :=
  match r with
  | .refused q => some q
  | _ => none

/-- The fault an outcome stops with. -/
def fault (r : Result) : Option Fault :=
  match r with
  | .fault q => some q
  | _ => none

/-- A register and the flags after an instruction. -/
def reg (i : Instr) (s : State) (r : Reg) : Option (Word × Flags) := (after (exec i s)).map fun t => (t.getReg r, t.flags)

/-- The program counter, the return-stack pointer and its top after an instruction. -/
def flow (i : Instr) (s : State) : Option (ProgAddr × BitVec 4 × ProgAddr) :=
  (after (exec i s)).map fun t => (t.pc, t.rsp, t.rasTop)

/-- At address 0x100 with a stack top 0x222 at pointer 1. -/
def at100 (f : Flags) : State := { State.reset.rasPush 0x222 with pc := 0x100, flags := f }

/-- A word loaded at an address, nothing stored to it. -/
def withWord (a v : Word) (s : State) : State := { s with mem := Memory.writeWord s.mem a v }

/-! The well-formedness check (R152, R305). -/

theorem test_wf_refuses_sbi_129 : (Instr.sbi 1 129).wf = false := by decide
theorem test_wf_refuses_sbi_minus_128 : (Instr.sbi 1 (-128)).wf = false := by decide
theorem test_wf_accepts_sbi_128 : (Instr.sbi 1 128).wf = true := by decide
theorem test_wf_accepts_sbi_minus_127 : (Instr.sbi 1 (-127)).wf = true := by decide

/-! Decoding: a word written out from the spec's encoding, for every constructor; an alias's word is that of the
instruction it stands for, and the alias encodes to it (R290 to R292). -/

theorem test_decode_flow :
    decode 0b0000000100100011 = .ok (.call 0x123) ∧
      decode 0b0011111111111111 = .ok (.call 0x3FFF) ∧
      decode 0b0100101111111011 = .ok (.jmp .nz 0x1FB) ∧
      decode 0b0101100000000000 = .ok (.ret .z) ∧
      decode 0b0101101100000000 = .ok (.loop .nz) ∧
      decode 0b0110000000000000 = .ok (.mark) ∧
      decode 0b0110010000001111 = .ok (.stra 15) ∧
      decode 0b0110100000001111 = .ok (.rep 15) := by
  decide

theorem test_decode_access :
    decode 0b0111011111100001 = .ok (.mvi 1 0x7E) ∧
      decode 0b1011101100000001 = .ok (.out 1 48) ∧
      decode 0b1011111111110001 = .ok (.out 1 127) ∧
      decode 0b1100000001010001 = .ok (.inp 1 5) ∧
      decode 0b1100100100100011 = .ok (.wr 3 2) ∧
      decode 0b1100101000010010 = .ok (.rd 2 1) ∧
      decode 0b1100101100000101 = .ok (.xchg 5 0) ∧
      decode 0b1100100000000000 = .ok (.noAccess) := by
  decide

theorem test_decode_arith :
    decode 0b1000111111110010 = .ok (.adi 2 0xFF) ∧
      decode 0b1001100000000001 = .ok (.cpi 1 0x80) ∧
      decode 0b1010111000000000 = .ok (.clc) ∧
      decode 0b1010111000010000 = .ok (.stc) ∧
      decode 0b1011001100010010 = .ok (.cmp 2 1) ∧
      decode 0b1011011100110100 = .ok (.cmpc 4 3) ∧
      decode 0b1101000000010010 = .ok (.mov 2 1) ∧
      decode 0b1101000100010010 = .ok (.mvn 2 1) ∧
      decode 0b1101001000010010 = .ok (.add 2 1) ∧
      decode 0b1101001100010010 = .ok (.sub 2 1) ∧
      decode 0b1101010000010010 = .ok (.movc 2 1) ∧
      decode 0b1101010100010010 = .ok (.mvnc 2 1) ∧
      decode 0b1101011000010010 = .ok (.adc 2 1) ∧
      decode 0b1101011100010010 = .ok (.sbc 2 1) ∧
      decode 0b1101100000010010 = .ok (.mov8 2 1) ∧
      decode 0b1101100100010010 = .ok (.mvn8 2 1) ∧
      decode 0b1101101000010010 = .ok (.add8 2 1) ∧
      decode 0b1101101100010010 = .ok (.sub8 2 1) ∧
      decode 0b1101110000010010 = .ok (.mov4 2 1) ∧
      decode 0b1101110100010010 = .ok (.mvn4 2 1) ∧
      decode 0b1101111000010010 = .ok (.add4 2 1) ∧
      decode 0b1101111100010010 = .ok (.sub4 2 1) := by
  decide

theorem test_decode_logic :
    decode 0b1110000000010011 = .ok (.not 3 1) ∧
      decode 0b1110000100010011 = .ok (.and 3 1) ∧
      decode 0b1110001000010011 = .ok (.or 3 1) ∧
      decode 0b1110001100010011 = .ok (.xor 3 1) ∧
      decode 0b1110010001110110 = .ok (.mask 6 7) ∧
      decode 0b1110010101110110 = .ok (.rst 6 7) ∧
      decode 0b1110011001110110 = .ok (.setb 6 7) ∧
      decode 0b1110011101110110 = .ok (.inv 6 7) := by
  decide

theorem test_decode_shift :
    decode 0b1010110001000101 = .ok (.btst 5 4) ∧
      decode 0b1110100000100001 = .ok (.mlls 1 2) ∧
      decode 0b1110100100100001 = .ok (.mhls 1 2) ∧
      decode 0b1110101000100001 = .ok (.ins4 1 2) ∧
      decode 0b1110101100100001 = .ok (.ins8 1 2) ∧
      decode 0b1110110000100001 = .ok (.in12 1 2) ∧
      decode 0b1110110100100001 = .ok (.rev 1 2) ∧
      decode 0b1110111010010001 = .ok (.shr 1 0b1001) ∧
      decode 0b1110111101010001 = .ok (.shl 1 0b0101) := by
  decide

theorem test_decode_multiply :
    decode 0b1010000000100001 = .ok (.umul 1 2) ∧
      decode 0b1010000100100001 = .ok (.umln 1 2) ∧
      decode 0b1010001000100001 = .ok (.umac 1 2) ∧
      decode 0b1010001100100001 = .ok (.umsb 1 2) ∧
      decode 0b1010010000100001 = .ok (.mul 1 2) ∧
      decode 0b1010010100100001 = .ok (.muln 1 2) ∧
      decode 0b1010011000100001 = .ok (.mac 1 2) ∧
      decode 0b1010011100100001 = .ok (.msub 1 2) ∧
      decode 0b1111000000000101 = .ok (.lpl 5) ∧
      decode 0b1111000100000110 = .ok (.lph 6) := by
  decide

theorem test_decode_divide :
    decode 0b1010100100010010 = .ok (.idiv 2 1) ∧
      decode 0b1010100000000000 = .ok (.fdiv) ∧
      decode 0b1111001000000001 = .ok (.lq 1) ∧
      decode 0b1111001100000010 = .ok (.lr 2) := by
  decide

theorem test_decode_jump_names :
    (encode (.jmpAlways 0x10) = 0x4010 ∧ decode 0x4010 = .ok (.jmp .always 0x10)) ∧
      (encode (.nop 0) = 0x4200 ∧ decode 0x4200 = .ok (.jmp .never 0)) ∧
      (encode (.jv 0x10) = 0x4410 ∧ decode 0x4410 = .ok (.jmp .v 0x10)) ∧
      (encode (.jnv 0x10) = 0x4610 ∧ decode 0x4610 = .ok (.jmp .nv 0x10)) ∧
      (encode (.jz 0x10) = 0x4810 ∧ decode 0x4810 = .ok (.jmp .z 0x10)) ∧
      (encode (.jnz 0x10) = 0x4A10 ∧ decode 0x4A10 = .ok (.jmp .nz 0x10)) ∧
      (encode (.jc 0x10) = 0x4C10 ∧ decode 0x4C10 = .ok (.jmp .c 0x10)) ∧
      (encode (.jnc 0x10) = 0x4E10 ∧ decode 0x4E10 = .ok (.jmp .nc 0x10)) := by
  decide

theorem test_decode_return_names :
    (encode (.retAlways) = 0x5000 ∧ decode 0x5000 = .ok (.ret .always)) ∧
      (encode (.retNever) = 0x5200 ∧ decode 0x5200 = .ok (.ret .never)) ∧
      (encode (.rv) = 0x5400 ∧ decode 0x5400 = .ok (.ret .v)) ∧
      (encode (.rnv) = 0x5600 ∧ decode 0x5600 = .ok (.ret .nv)) ∧
      (encode (.rz) = 0x5800 ∧ decode 0x5800 = .ok (.ret .z)) ∧
      (encode (.rnz) = 0x5A00 ∧ decode 0x5A00 = .ok (.ret .nz)) ∧
      (encode (.rc) = 0x5C00 ∧ decode 0x5C00 = .ok (.ret .c)) ∧
      (encode (.rnc) = 0x5E00 ∧ decode 0x5E00 = .ok (.ret .nc)) := by
  decide

theorem test_decode_loop_names :
    (encode (.loopAlways) = 0x5100 ∧ decode 0x5100 = .ok (.loop .always)) ∧
      (encode (.loopNever) = 0x5300 ∧ decode 0x5300 = .ok (.loop .never)) ∧
      (encode (.lv) = 0x5500 ∧ decode 0x5500 = .ok (.loop .v)) ∧
      (encode (.lnv) = 0x5700 ∧ decode 0x5700 = .ok (.loop .nv)) ∧
      (encode (.lz) = 0x5900 ∧ decode 0x5900 = .ok (.loop .z)) ∧
      (encode (.lnz) = 0x5B00 ∧ decode 0x5B00 = .ok (.loop .nz)) ∧
      (encode (.lc) = 0x5D00 ∧ decode 0x5D00 = .ok (.loop .c)) ∧
      (encode (.lnc) = 0x5F00 ∧ decode 0x5F00 = .ok (.loop .nc)) := by
  decide

theorem test_decode_constant_names :
    (encode (.rpt 254) = 0x68FE ∧ decode 0x68FE = .ok (.rep 254)) ∧
      (encode (.sbi 2 1) = 0x8FF2 ∧ decode 0x8FF2 = .ok (.adi 2 0xFF)) ∧
      (encode (.sbi 2 128) = 0x8802 ∧ decode 0x8802 = .ok (.adi 2 0x80)) ∧
      (encode (.inc 2) = 0x8012 ∧ decode 0x8012 = .ok (.adi 2 1)) ∧
      (encode (.dec 1) = 0x8FF1 ∧ decode 0x8FF1 = .ok (.adi 1 0xFF)) ∧
      (encode (.cpz 1) = 0x9001 ∧ decode 0x9001 = .ok (.cpi 1 0)) ∧
      (encode (.xtos 5) = 0xCB05 ∧ decode 0xCB05 = .ok (.xchg 5 0)) := by
  decide

theorem test_decode_register_names :
    (encode (.neg 2) = 0xD122 ∧ decode 0xD122 = .ok (.mvn 2 2)) ∧
      (encode (.negc 2) = 0xD522 ∧ decode 0xD522 = .ok (.mvnc 2 2)) ∧
      (encode (.neg8 2) = 0xD922 ∧ decode 0xD922 = .ok (.mvn8 2 2)) ∧
      (encode (.neg4 2) = 0xDD22 ∧ decode 0xDD22 = .ok (.mvn4 2 2)) ∧
      (encode (.sxl 3) = 0xE833 ∧ decode 0xE833 = .ok (.mlls 3 3)) ∧
      (encode (.sxh 3) = 0xE933 ∧ decode 0xE933 = .ok (.mhls 3 3)) ∧
      (encode (.ror4 1) = 0xEA11 ∧ decode 0xEA11 = .ok (.ins4 1 1)) ∧
      (encode (.swap 1) = 0xEB11 ∧ decode 0xEB11 = .ok (.ins8 1 1)) ∧
      (encode (.rol4 1) = 0xEC11 ∧ decode 0xEC11 = .ok (.in12 1 1)) ∧
      (encode (.ror 1) = 0xEE01 ∧ decode 0xEE01 = .ok (.shr 1 0)) ∧
      (encode (.asr 1) = 0xEE41 ∧ decode 0xEE41 = .ok (.shr 1 4)) ∧
      (encode (.rrc 1) = 0xEE81 ∧ decode 0xEE81 = .ok (.shr 1 8)) ∧
      (encode (.lsr 1) = 0xEEC1 ∧ decode 0xEEC1 = .ok (.shr 1 12)) ∧
      (encode (.rol 1) = 0xEF51 ∧ decode 0xEF51 = .ok (.shl 1 5)) ∧
      (encode (.rlc 1) = 0xEF91 ∧ decode 0xEF91 = .ok (.shl 1 9)) ∧
      (encode (.lsl 1) = 0xEFD1 ∧ decode 0xEFD1 = .ok (.shl 1 13)) := by
  decide

/-- R81, R82: words the spec lists as no instruction. -/
theorem test_decode_refuses :
    decode 0x6900 = .error .unusedEncoding ∧
      decode 0xAA00 = .error .unusedEncoding ∧
      decode 0xB012 = .error .unusedEncoding ∧
      decode 0xCC00 = .error .unusedEncoding ∧
      decode 0xF400 = .error .unusedEncoding ∧
      decode 0xFFFF = .error .unusedEncoding ∧
      decode 0xA801 = .error .unusedEncoding ∧
      decode 0xAE01 = .error .unusedEncoding ∧
      decode 0xAE20 = .error .unusedEncoding ∧
      decode 0xF015 = .error .unusedEncoding ∧
      decode 0xF2F1 = .error .unusedEncoding ∧
      decode 0x5001 = .error .blankBitsSet ∧
      decode 0x5F80 = .error .blankBitsSet ∧
      decode 0x6001 = .error .blankBitsSet ∧
      decode 0x641F = .error .blankBitsSet ∧
      decode 0xC801 = .error .blankBitsSet := by
  decide

/-- The host's numbering: bit 0 of the number is bit 0 of the one word. -/
theorem test_decode_table_word : decodeTableWord 16 0xD212 = some (.add 2 1) ∧ decodeTableWord 16 0xF400 = none := by
  decide

/-! Arithmetic (95_test_vectors.md 3.3); both senses of C where the row gives both. -/

theorem test_adi_overflow :
    reg (.adi 2 0x7F) (st 0 0x7F81 (cvz true true true)) 2 = some (0x8000, cvz false true false) := by
  decide
theorem test_adi_carry :
    reg (.adi 2 0x80) (st 0 0x0080 (cvz false false false)) 2 = some (0x0000, cvz true false true) := by
  decide
theorem test_sbi :
    reg (.sbi 2 1) (st 0 0x8000 (cvz false false false)) 2 = some (0x7FFF, cvz true true false) := by
  decide
theorem test_inc :
    reg (.inc 2) (st 0 0xFFFF (cvz false true false)) 2 = some (0x0000, cvz true false true) := by
  decide
theorem test_dec :
    reg (.dec 2) (st 0 0x0000 (cvz true true true)) 2 = some (0xFFFF, cvz false false false) := by
  decide
theorem test_cpi :
    reg (.cpi 1 0xFF) (st 0x7FFF 0 (cvz false false false)) 1 = some (0x7FFF, cvz true true false) ∧
      reg (.cpi 1 0xFF) (noBorrow (st 0x7FFF 0 (cvz false false false))) 1 = some (0x7FFF, cvz false true false) := by
  decide
theorem test_cpz :
    reg (.cpz 1) (st 0x0000 0 (cvz true true false)) 1 = some (0x0000, cvz false false true) ∧
      reg (.cpz 1) (noBorrow (st 0x0000 0 (cvz true true false))) 1 = some (0x0000, cvz true false true) := by
  decide
theorem test_clc : reg (.clc) (st 0 0 (cvz true true true)) 1 = some (0, cvz false true true) := by decide
theorem test_stc : reg (.stc) (st 0 0 (cvz false false false)) 1 = some (0, cvz true false false) := by decide
theorem test_cmp :
    reg (.cmp 2 1) (st 0xFFFF 0x7FFF (cvz false false true)) 2 = some (0x7FFF, cvz true true false) ∧
      reg (.cmp 2 1) (noBorrow (st 0xFFFF 0x7FFF (cvz false false true))) 2 = some (0x7FFF, cvz false true false) := by
  decide
theorem test_cmpc :
    reg (.cmpc 2 1) (st 0xFFFF 0x0000 (cvz true false false)) 2 = some (0x0000, cvz true false true) ∧
      reg (.cmpc 2 1) (noBorrow (st 0xFFFF 0x0000 (cvz false false false))) 2 = some (0x0000, cvz false false true) := by
  decide
theorem test_mov :
    reg (.mov 2 1) (st 0x0000 0x5555 (cvz true true false)) 2 = some (0x0000, cvz false false true) := by
  decide
theorem test_mvn :
    reg (.mvn 2 1) (st 0x8000 0x5555 (cvz false false false)) 2 = some (0x8000, cvz true true false) ∧
      reg (.mvn 2 1) (noBorrow (st 0x8000 0x5555 (cvz false false false))) 2 = some (0x8000, cvz false true false) := by
  decide
theorem test_neg :
    reg (.neg 2) (st 0 0x8000 (cvz false false true)) 2 = some (0x8000, cvz true true false) ∧
      reg (.neg 2) (noBorrow (st 0 0x8000 (cvz false false true))) 2 = some (0x8000, cvz false true false) := by
  decide
theorem test_add :
    reg (.add 2 1) (st 0x8000 0x8000 (cvz false false false)) 2 = some (0x0000, cvz true true true) := by
  decide
theorem test_sub :
    reg (.sub 2 1) (st 0xFFFF 0x7FFF (cvz false false true)) 2 = some (0x8000, cvz true true false) ∧
      reg (.sub 2 1) (noBorrow (st 0xFFFF 0x7FFF (cvz false false true))) 2 = some (0x8000, cvz false true false) := by
  decide
theorem test_movc :
    reg (.movc 2 1) (st 0x7FFF 0x5555 (cvz true false false)) 2 = some (0x8000, cvz false true false) := by
  decide
theorem test_mvnc :
    reg (.mvnc 2 1) (st 0x8000 0x5555 (cvz true false false)) 2 = some (0x7FFF, cvz true false false) ∧
      reg (.mvnc 2 1) (noBorrow (st 0x8000 0x5555 (cvz false false false))) 2 = some (0x7FFF, cvz false false false) := by
  decide
theorem test_negc :
    reg (.negc 2) (st 0 0x0000 (cvz true false false)) 2 = some (0xFFFF, cvz true false false) ∧
      reg (.negc 2) (noBorrow (st 0 0x0000 (cvz false false false))) 2 = some (0xFFFF, cvz false false false) := by
  decide
theorem test_adc :
    reg (.adc 2 1) (st 0xFFFF 0xFFFF (cvz true false false)) 2 = some (0xFFFF, cvz true false false) := by
  decide
theorem test_sbc :
    reg (.sbc 2 1) (st 0x0000 0x8000 (cvz true false false)) 2 = some (0x7FFF, cvz false true false) ∧
      reg (.sbc 2 1) (noBorrow (st 0x0000 0x8000 (cvz false false false))) 2 = some (0x7FFF, cvz true true false) := by
  decide
theorem test_mov8 :
    reg (.mov8 2 1) (st 0xFF20 0x12F0 (cvz true true true)) 2 = some (0x1220, cvz true true true) := by
  decide
theorem test_mvn8 :
    reg (.mvn8 2 1) (st 0xFF20 0x12F0 (cvz true true true)) 2 = some (0x12E0, cvz true true true) := by
  decide
theorem test_add8 :
    reg (.add8 2 1) (st 0xFF20 0x12F0 (cvz true true true)) 2 = some (0x1210, cvz true true true) := by
  decide
theorem test_sub8 :
    reg (.sub8 2 1) (st 0xFF20 0x12F0 (cvz true true true)) 2 = some (0x12D0, cvz true true true) := by
  decide
theorem test_neg8 :
    reg (.neg8 2) (st 0 0x1203 (cvz true false true)) 2 = some (0x12FD, cvz true false true) := by
  decide
theorem test_mov4 :
    reg (.mov4 2 1) (st 0x00FF 0x1234 (cvz true false true)) 2 = some (0x123F, cvz true false true) := by
  decide
theorem test_mvn4 :
    reg (.mvn4 2 1) (st 0x00FF 0x1234 (cvz true false true)) 2 = some (0x1231, cvz true false true) := by
  decide
theorem test_add4 :
    reg (.add4 2 1) (st 0x00FF 0x1234 (cvz true false true)) 2 = some (0x1233, cvz true false true) := by
  decide
theorem test_sub4 :
    reg (.sub4 2 1) (st 0x00FF 0x1234 (cvz true false true)) 2 = some (0x1235, cvz true false true) := by
  decide
theorem test_neg4 :
    reg (.neg4 2) (st 0 0x1231 (cvz true false true)) 2 = some (0x123F, cvz true false true) := by
  decide

/-! Logic (95_test_vectors.md 3.4); the flags stay. -/

theorem test_not :
    reg (.not 2 1) (st 0x00FF 0x0FF0 (cvz true true false)) 2 = some (0xFF00, cvz true true false) := by
  decide
theorem test_and :
    reg (.and 2 1) (st 0x00FF 0x0FF0 (cvz true true false)) 2 = some (0x00F0, cvz true true false) := by
  decide
theorem test_or :
    reg (.or 2 1) (st 0x00FF 0x0FF0 (cvz true true false)) 2 = some (0x0FFF, cvz true true false) := by
  decide
theorem test_xor :
    reg (.xor 2 1) (st 0x00FF 0x0FF0 (cvz true true false)) 2 = some (0x0F0F, cvz true true false) := by
  decide
theorem test_mask_0 :
    reg (.mask 2 0) (st 0 0xABCD (cvz false true false)) 2 = some (0x0000, cvz false true false) := by
  decide
theorem test_mask_15 :
    reg (.mask 2 15) (st 0 0xABCD (cvz false true false)) 2 = some (0x2BCD, cvz false true false) := by
  decide
theorem test_rst :
    reg (.rst 2 15) (st 0 0xFFFF (cvz false true false)) 2 = some (0x7FFF, cvz false true false) := by
  decide
theorem test_setb :
    reg (.setb 2 15) (st 0 0x0001 (cvz false true false)) 2 = some (0x8001, cvz false true false) := by
  decide
theorem test_inv :
    reg (.inv 2 7) (st 0 0x00FF (cvz false true false)) 2 = some (0x007F, cvz false true false) := by
  decide

/-! Bit test, sign extension, insert, reverse, shift (95_test_vectors.md 3.5). -/

theorem test_btst :
    reg (.btst 2 15) (st 0 0x8000 (cvz false true true)) 2 = some (0x8000, cvz true true true) := by
  decide
theorem test_mlls :
    reg (.mlls 1 2) (st 0x5555 0x1280 (cvz true false true)) 1 = some (0xFF80, cvz true false true) := by
  decide
theorem test_mhls :
    reg (.mhls 1 2) (st 0x5555 0x7F34 (cvz true false true)) 1 = some (0x007F, cvz true false true) := by
  decide
theorem test_sxl :
    reg (.sxl 1) (st 0x12F0 0 (cvz true false true)) 1 = some (0xFFF0, cvz true false true) := by
  decide
theorem test_sxh :
    reg (.sxh 1) (st 0x80FF 0 (cvz true false true)) 1 = some (0xFF80, cvz true false true) := by
  decide
theorem test_ins4 :
    reg (.ins4 1 2) (st 0xABCD 0x1237 (cvz false true true)) 1 = some (0x7ABC, cvz false true true) := by
  decide
theorem test_ins8 :
    reg (.ins8 1 2) (st 0xABCD 0x1237 (cvz false true true)) 1 = some (0x37AB, cvz false true true) := by
  decide
theorem test_in12 :
    reg (.in12 1 2) (st 0xABCD 0x1237 (cvz false true true)) 1 = some (0x237A, cvz false true true) := by
  decide
theorem test_ror4 :
    reg (.ror4 1) (st 0xABCD 0x1237 (cvz false true true)) 1 = some (0xDABC, cvz false true true) := by
  decide
theorem test_swap :
    reg (.swap 1) (st 0xABCD 0x1237 (cvz false true true)) 1 = some (0xCDAB, cvz false true true) := by
  decide
theorem test_rol4 :
    reg (.rol4 1) (st 0xABCD 0x1237 (cvz false true true)) 1 = some (0xBCDA, cvz false true true) := by
  decide
theorem test_rev :
    reg (.rev 1 2) (st 0 0x1234 (cvz false true true)) 1 = some (0x2C48, cvz false true true) := by
  decide
theorem test_shr_code_1011 :
    reg (.shr 1 0b1011) (st 0x4003 0 (cvz true false false)) 1 = some (0xA001, cvz false false false) := by
  decide
theorem test_shr_code_1110 :
    reg (.shr 1 0b1110) (st 0x8002 0 (cvz false true true)) 1 = some (0xC001, cvz false true true) := by
  decide
theorem test_shl_code_0001 :
    reg (.shl 1 0b0001) (st 0x4003 0 (cvz true false false)) 1 = some (0x8007, cvz false false false) := by
  decide
theorem test_shl_code_1100 :
    reg (.shl 1 0b1100) (st 0x8002 0 (cvz true true true)) 1 = some (0x0004, cvz false true true) := by
  decide
theorem test_ror :
    reg (.ror 1) (st 0x4002 0 (cvz true true false)) 1 = some (0x2001, cvz false true false) := by
  decide
theorem test_rol :
    reg (.rol 1) (st 0x8001 0 (cvz false true false)) 1 = some (0x0003, cvz true true false) := by
  decide
theorem test_rrc :
    reg (.rrc 1) (st 0x4002 0 (cvz true true false)) 1 = some (0xA001, cvz false true false) := by
  decide
theorem test_rlc :
    reg (.rlc 1) (st 0x4002 0 (cvz true true false)) 1 = some (0x8005, cvz false true false) := by
  decide
theorem test_lsr :
    reg (.lsr 1) (st 0x8001 0 (cvz true true false)) 1 = some (0x4000, cvz true true false) := by
  decide
theorem test_lsl :
    reg (.lsl 1) (st 0x8001 0 (cvz true true false)) 1 = some (0x0002, cvz true true false) := by
  decide
theorem test_asr :
    reg (.asr 1) (st 0x8001 0 (cvz false true false)) 1 = some (0xC000, cvz true true false) := by
  decide

/-! Multiply-accumulate (95_test_vectors.md 3.6), from the accumulator value 100. -/

/-- The accumulator after an instruction, from the value 100. -/
def acc (i : Instr) (r1 r2 : Word) : Option (BitVec 32) :=
  (after (exec i { st r1 r2 (cvz false false false) with acc := 100 })).map State.acc

theorem test_umul : acc (.umul 1 2) 0x0003 0xFFFE = some 0x0002FFFA := by decide
theorem test_umln : acc (.umln 1 2) 0x0003 0xFFFE = some 0xFFFD0006 := by decide
theorem test_umac : acc (.umac 1 2) 0x0003 0xFFFE = some 0x0003005E := by decide
theorem test_umsb : acc (.umsb 1 2) 0x0003 0xFFFE = some 0xFFFD006A := by decide
theorem test_mul : acc (.mul 1 2) 0x0003 0xFFFE = some 0xFFFFFFFA := by decide
theorem test_muln : acc (.muln 1 2) 0x0003 0xFFFE = some 0x00000006 := by decide
theorem test_mac : acc (.mac 1 2) 0x0003 0xFFFE = some 0x0000005E := by decide
theorem test_msub : acc (.msub 1 2) 0x0003 0xFFFE = some 0x0000006A := by decide
theorem test_lpl :
    reg (.lpl 5) { st 0 0 (cvz true false true) with acc := 0xC0008000 } 5 = some (0x8000, cvz true false true) := by
  decide
theorem test_lph :
    reg (.lph 6) { st 0 0 (cvz true false true) with acc := 0xC0008000 } 6 = some (0xC000, cvz true false true) := by
  decide

/-! Division (95_test_vectors.md 3.7). -/

/-- Quotient, remainder, divisor and wait after an instruction. -/
def division (i : Instr) (s : State) : Option (Word × Word × Word × Nat) :=
  (after (exec i s)).map fun t => (t.divq, t.divr, t.divd, t.divWait)

/-- The divider idle after 255 / 4. -/
def divided : State := { st 0 0 (cvz false false false) with divq := 0x3F, divr := 3, divd := 4 }

theorem test_idiv : division (.idiv 2 1) (st 0xA000 0x9000 (cvz false false false)) = some (0, 0x9000, 0xA000, 18) := by
  decide
theorem test_fdiv : division .fdiv divided = some (0xC000, 0, 4, 17) := by decide
theorem test_lq : reg (.lq 1) divided 1 = some (0x3F, cvz false false false) := by decide
theorem test_lr : reg (.lr 2) divided 2 = some (3, cvz false false false) := by decide
theorem test_division_while_busy_is_refused :
    refusal (exec .fdiv { divided with divWait := 1 }) = some .divisionWhileBusy := by
  decide

/-! Program flow (95_test_vectors.md 3.1). -/

theorem test_call :
    flow (.call 0x123) (st 0 0 (cvz false false false)) = some (0x123, 1, 0x11) ∧
      flow (.call 0) { State.reset with pc := 0x3FFF } = some (0, 1, 0) := by
  decide
theorem test_jmp :
    flow (.jmp .always 0x100) (at100 (cvz false false false)) = some (1, 1, 0x222) ∧
      flow (.jmp .always 5) { State.reset with pc := 0x3FFE } = some (4, 0, 0) := by
  decide
theorem test_ret : flow (.ret .always) (at100 (cvz false false false)) = some (0x222, 0, 0) := by decide
theorem test_loop : flow (.loop .always) (at100 (cvz false false false)) = some (0x222, 1, 0x222) := by decide
theorem test_mark : flow .mark (at100 (cvz false false false)) = some (0x101, 2, 0x101) := by decide
theorem test_stra : flow (.stra 1) (st 0xC200 0 (cvz false false false)) = some (0x11, 1, 0x200) := by decide
theorem test_rep :
    (after (exec (.rep 0) (st 0 0 (cvz false false false)))).map (fun t => (t.pc, t.rep)) = some (0x11, 2) := by
  decide
theorem test_rpt :
    (after (exec (.rpt 255) (st 0 0 (cvz false false false)))).map (fun t => (t.pc, t.rep)) = some (0x11, 257) := by
  decide
theorem test_nop : flow (.nop 0xAA) (at100 (cvz true true true)) = some (0x101, 1, 0x222) := by decide
theorem test_jmp_always :
    flow (.jmpAlways 0x0FF) (at100 (cvz false false false)) = some (0x200, 1, 0x222) := by
  decide

theorem test_jv :
    flow (.jv 0x10) (at100 (cvz false true false)) = some (0x111, 1, 0x222) ∧
      flow (.jv 0x10) (at100 (cvz true false true)) = some (0x101, 1, 0x222) := by
  decide
theorem test_jnv :
    flow (.jnv 0x10) (at100 (cvz true false true)) = some (0x111, 1, 0x222) ∧
      flow (.jnv 0x10) (at100 (cvz false true false)) = some (0x101, 1, 0x222) := by
  decide
theorem test_jz :
    flow (.jz 0x10) (at100 (cvz false false true)) = some (0x111, 1, 0x222) ∧
      flow (.jz 0x10) (at100 (cvz true true false)) = some (0x101, 1, 0x222) := by
  decide
theorem test_jnz :
    flow (.jnz 0x10) (at100 (cvz true true false)) = some (0x111, 1, 0x222) ∧
      flow (.jnz 0x10) (at100 (cvz false false true)) = some (0x101, 1, 0x222) := by
  decide
theorem test_jc :
    flow (.jc 0x10) (at100 (cvz true false false)) = some (0x111, 1, 0x222) ∧
      flow (.jc 0x10) (at100 (cvz false true true)) = some (0x101, 1, 0x222) := by
  decide
theorem test_jnc :
    flow (.jnc 0x10) (at100 (cvz false true true)) = some (0x111, 1, 0x222) ∧
      flow (.jnc 0x10) (at100 (cvz true false false)) = some (0x101, 1, 0x222) := by
  decide
theorem test_ret_always : flow .retAlways (at100 (cvz false false false)) = some (0x222, 0, 0) := by decide
theorem test_ret_never : flow .retNever (at100 (cvz true true true)) = some (0x101, 1, 0x222) := by decide
theorem test_rv :
    flow .rv (at100 (cvz false true false)) = some (0x222, 0, 0) ∧
      flow .rv (at100 (cvz true false true)) = some (0x101, 1, 0x222) := by
  decide
theorem test_rnv :
    flow .rnv (at100 (cvz true false true)) = some (0x222, 0, 0) ∧
      flow .rnv (at100 (cvz false true false)) = some (0x101, 1, 0x222) := by
  decide
theorem test_rz :
    flow .rz (at100 (cvz false false true)) = some (0x222, 0, 0) ∧
      flow .rz (at100 (cvz true true false)) = some (0x101, 1, 0x222) := by
  decide
theorem test_rnz :
    flow .rnz (at100 (cvz true true false)) = some (0x222, 0, 0) ∧
      flow .rnz (at100 (cvz false false true)) = some (0x101, 1, 0x222) := by
  decide
theorem test_rc :
    flow .rc (at100 (cvz true false false)) = some (0x222, 0, 0) ∧
      flow .rc (at100 (cvz false true true)) = some (0x101, 1, 0x222) := by
  decide
theorem test_rnc :
    flow .rnc (at100 (cvz false true true)) = some (0x222, 0, 0) ∧
      flow .rnc (at100 (cvz true false false)) = some (0x101, 1, 0x222) := by
  decide
theorem test_loop_always :
    flow .loopAlways (at100 (cvz false false false)) = some (0x222, 1, 0x222) := by
  decide
theorem test_loop_never : flow .loopNever (at100 (cvz true true true)) = some (0x101, 0, 0) := by decide
theorem test_lv :
    flow .lv (at100 (cvz false true false)) = some (0x222, 1, 0x222) ∧
      flow .lv (at100 (cvz true false true)) = some (0x101, 0, 0) := by
  decide
theorem test_lnv :
    flow .lnv (at100 (cvz true false true)) = some (0x222, 1, 0x222) ∧
      flow .lnv (at100 (cvz false true false)) = some (0x101, 0, 0) := by
  decide
theorem test_lz :
    flow .lz (at100 (cvz false false true)) = some (0x222, 1, 0x222) ∧
      flow .lz (at100 (cvz true true false)) = some (0x101, 0, 0) := by
  decide
theorem test_lnz :
    flow .lnz (at100 (cvz true true false)) = some (0x222, 1, 0x222) ∧
      flow .lnz (at100 (cvz false false true)) = some (0x101, 0, 0) := by
  decide
theorem test_lc :
    flow .lc (at100 (cvz true false false)) = some (0x222, 1, 0x222) ∧
      flow .lc (at100 (cvz false true true)) = some (0x101, 0, 0) := by
  decide
theorem test_lnc :
    flow .lnc (at100 (cvz false true true)) = some (0x222, 1, 0x222) ∧
      flow .lnc (at100 (cvz true false false)) = some (0x101, 0, 0) := by
  decide

/-! Immediate data, ports, memory (95_test_vectors.md 3.2). -/

theorem test_mvi_first :
    (after (exec (.mvi 1 0xB4) State.reset)).map (fun t => (t.getReg 1, t.mviLat)) = some (0xFFB4, some 1) := by
  decide
theorem test_mvi_second :
    (after (exec (.mvi 1 0x3A) { st 0xFFB4 0 (cvz false false false) with mviLat := some 1 })).map
      (fun t => (t.getReg 1, t.mviLat)) = some (0x3AB4, none) := by
  decide
theorem test_out :
    (after (exec (.out 1 48) (st 0x1234 0 (cvz false false false)))).map State.io = some [.write 48 0x1234] := by
  decide
theorem test_in :
    (after (exec (.inp 1 5) { State.reset with portIn := [0xABCD] })).map (fun t => (t.getReg 1, t.io, t.portIn)) =
      some (0xABCD, [.read 5 0xABCD], []) := by
  decide
theorem test_wr :
    (after (exec (.wr 1 2) (st 0xBEEF 0x0300 (cvz false false false)))).map (fun t => (Memory.readWord t.mem 0x300, t.stored)) =
      some (some 0xBEEF, [0x300]) := by
  decide
theorem test_rd :
    reg (.rd 2 1) (withWord 0x300 0x1234 (st 0x300 0 (cvz true true true))) 2 = some (0x1234, cvz true true true) := by
  decide
theorem test_rd_stops :
    fault (exec (.rd 2 1) (st 0x301 0 (cvz false false false))) = some (.readUnwritten 0x301) ∧
      fault (exec (.rd 2 1) { st 0x8000 0 (cvz false false false) with cfg := { resetConfig with memWords := 0x8000 } }) =
        some (.readOutside 0x8000) := by
  decide
theorem test_xchg :
    (after (exec (.xchg 1 1) (withWord 0x300 0x5555 (st 0x300 0 (cvz false false false))))).map
      (fun t => (t.getReg 1, Memory.readWord t.mem 0x300)) = some (0x5555, some 0x300) := by
  decide
theorem test_xtos :
    (after (exec (.xtos 1) (withWord 0x1FF 0x5555 ((st 0xAAAA 0 (cvz false false false)).setReg 0 0x1FF)))).map
      (fun t => (t.getReg 1, Memory.readWord t.mem 0x1FF, t.getReg 0)) = some (0x5555, some 0xAAAA, 0x1FF) := by
  decide
theorem test_no_access :
    after (exec .noAccess (st 1 2 (cvz true true true))) = some { st 1 2 (cvz true true true) with pc := 0x11 } := by
  decide

/-! One step: the first instruction after reset is the one placed there. -/

theorem test_step_runs_the_placed_word :
    (after (step (State.reset.withFetchWord 16 0x8011))).map (fun t => (t.pc, t.getReg 1)) = some (1, 1) := by
  decide
theorem test_step_refuses_a_stored_word :
    refusal (step { State.reset.withFetchWord 16 0x8011 with stored := [0] }) = some (.selfModifyingCode 0) := by
  decide

/-! Witnesses: for each statement with hypotheses, a state and operands that meet all of them, for each of its clauses. -/

/-- An outcome that goes on. -/
theorem goes_on {r : Result} (h : (after r).isSome = true) : ∃ t, r = .next t := by
  cases r with
  | next t => exact ⟨t, rfl⟩
  | fault _ => cases h
  | refused _ => cases h

/-- A plain state for the witnesses: R1 = 5, R2 = 3, every flag clear. -/
def plain : State := st 5 3 (cvz false false false)

/-- The same with an instruction loaded where it fetches. -/
def fetching (w : Nat) : State := plain.withFetchWord 16 w

/-- A state with two words of memory: R1 and R2 name addresses at its two ends, R0 an address inside it. -/
def small : State :=
  withWord 0 0x1111 (withWord 0x7FFF 0x2222 ((st 0x7FFF 0 (cvz false false false)).setReg 0 0x7FFF)) |> fun s =>
    { s with cfg := { resetConfig with memWords := 0x8000 } }

theorem witness_StepRunsTheDecodedInstruction :
    (fetchAddr (fetching 0xD212).pc).toNat < (fetching 0xD212).cfg.memWords ∧
      (fetchAddr (fetching 0xD212).pc).toNat ∉ (fetching 0xD212).stored ∧
      Memory.readWord (fetching 0xD212).mem (fetchAddr (fetching 0xD212).pc) = some 0xD212 ∧
      decode 0xD212 = .ok (.add 2 1) := by
  decide

theorem witness_DecodeOfEncodeIsTheMachineInstruction :
    (Instr.sbi 1 (-127)).wf = true ∧ (Instr.sbi 1 128).wf = true ∧ (Instr.call 0x3FFF).wf = true := by
  decide

theorem witness_EncodeOfDecodeIsTheWord : decode 0xEEF1 = .ok (.shr 1 0b1111) := by decide

theorem witness_NamedFormsRunAsTheirInstruction : (Instr.sbi 1 128).wf = true ∧ (Instr.lnz).wf = true := by decide

theorem witness_StepKeepsTheInvariant : Inv (fetching 0xC912) ∧ ∃ t, step (fetching 0xC912) = .next t := by
  refine ⟨⟨?_, ?_, ?_, ?_, ?_, ?_, ?_, ?_, ?_, ?_, ?_⟩, goes_on ?_⟩ <;> decide

theorem witness_OnlyRegisterAIsWritten :
    (∃ t, exec (.cmp 2 1) plain = .next t) ∧ ∃ t, exec (.sub 2 1) plain = .next t :=
  ⟨goes_on (by decide), goes_on (by decide)⟩

theorem witness_FlagsChangeOnlyByTheirInstructions :
    (∃ t, exec (.btst 2 0) plain = .next t) ∧ writesAllFlags (.btst 2 0) = false ∧
      (∃ t, exec (.xor 2 1) plain = .next t) ∧ writesAllFlags (.xor 2 1) = false ∧ writesCOnly (.xor 2 1) = false :=
  ⟨goes_on (by decide), rfl, goes_on (by decide), rfl, rfl⟩

theorem witness_OtherStateChangesOnlyByItsInstructions :
    (∃ t, exec (.add 2 1) plain = .next t) ∧ writesMemory (.add 2 1) = false ∧ accessesPort (.add 2 1) = false ∧
      writesRas (.add 2 1) = false ∧ writesAcc (.add 2 1) = false ∧ writesDivider (.add 2 1) = false :=
  ⟨goes_on (by decide), rfl, rfl, rfl, rfl, rfl⟩

theorem witness_EveryInstructionMakesTheCommonUpdates :
    (∃ t, exec (.add 2 1) plain = .next t) ∧ (∃ t, exec (.mvi 2 1) plain = .next t) ∧
      (∃ t, exec (.rpt 0) plain = .next t) ∧ (∃ t, exec (.idiv 2 1) plain = .next t) ∧ ∃ t, exec .fdiv plain = .next t :=
  ⟨goes_on (by decide), goes_on (by decide), goes_on (by decide), goes_on (by decide), goes_on (by decide)⟩

theorem witness_ConstantAdditionsWriteSumAndFlags :
    ((-127 : Int) ≤ -127 ∧ (-127 : Int) ≤ 128) ∧ ((-127 : Int) ≤ 128 ∧ (128 : Int) ≤ 128) ∧
      ((-128 : Int) < -127 ∨ (128 : Int) < -128) ∧ ((129 : Int) < -127 ∨ (128 : Int) < 129) := by
  decide

theorem witness_PairsAddAndSubtract32Bits : (1 : Reg) ≠ 2 ∧ (1 : Reg) ≠ 4 := by decide

theorem witness_PairsCompareAndNegate32Bits : (1 : Reg) ≠ 2 := by decide

theorem witness_TwoWordShiftsShift32Bits : (2 : Reg) ≠ 1 := by decide

theorem witness_the_multiply_unit_is_present : plain.cfg.hasMac = true := by decide

theorem witness_AbsentUnitsAreRefused :
    { plain with cfg := { resetConfig with hasMac := false } }.cfg.hasMac = false ∧
      Instr.lph 1 ∈ macInstructions 1 2 ∧
      { plain with cfg := { resetConfig with hasDiv := false } }.cfg.hasDiv = false ∧ Instr.fdiv ∈ divInstructions 1 2 := by
  decide

theorem witness_IdivLeavesQuotientAndRemainder :
    plain.cfg.hasDiv = true ∧ plain.divWait = 0 ∧ plain.getReg 2 ≠ 0 := by
  decide

theorem witness_DivisionByZeroCompletes :
    plain.cfg.hasDiv = true ∧ plain.divWait = 0 ∧ plain.getReg 3 = 0 ∧ plain.divd = 0 := by
  decide

theorem witness_FdivLeavesTheFraction :
    divided.cfg.hasDiv = true ∧ divided.divWait = 0 ∧ divided.divr.toNat < divided.divd.toNat := by
  decide

theorem witness_DivisionWhileBusyIsRefused :
    (∀ n ∈ [1, 18], { divided with divWait := n }.cfg.hasDiv = true ∧ { divided with divWait := n }.divWait ≠ 0) := by
  decide

theorem witness_DividerReadsCopyItsRegisters : divided.cfg.hasDiv = true ∧ divided.divWait = 0 := by decide

theorem witness_DividerReadsWhileBusyComplete :
    { divided with divWait := 18 }.cfg.hasDiv = true ∧ { divided with divWait := 18 }.divWait ≠ 0 ∧
      Instr.lr 1 ∈ [Instr.lq 1, Instr.lr 1] := by
  decide

theorem witness_IdivThenFdivDivides32Bits :
    ∃ t u : State, plain.getReg 2 ≠ 0 ∧ exec (.idiv 1 2) plain = .next t ∧ u.divr = t.divr ∧ u.divd = t.divd ∧
      u.divWait = 0 ∧ u.cfg.hasDiv = true := by
  obtain ⟨t, h⟩ := goes_on (r := exec (.idiv 1 2) plain) (by decide)
  exact ⟨t, { t with divWait := 0, cfg := resetConfig }, by decide, h, rfl, rfl, rfl, rfl⟩

theorem witness_no_repetition_is_pending : plain.rep = 0 := by decide

theorem witness_JumpsFollowTheirCondition :
    Instr.jz 0x1FF ∈ [Instr.jmp .z 0x1FF, jumpName .z 0x1FF] ∧
      (condTrue .nz plain.flags ∧ plain.rep = 0) ∧ ¬condTrue .z plain.flags :=
  ⟨by decide, ⟨rfl, rfl⟩, fun h : false = true => nomatch h⟩

theorem witness_ReturnsFollowTheirCondition :
    Instr.rz ∈ [Instr.ret .z, returnName .z] ∧ (condTrue .nz plain.flags ∧ plain.rep = 0) ∧ ¬condTrue .z plain.flags :=
  ⟨by decide, ⟨rfl, rfl⟩, fun h : false = true => nomatch h⟩

theorem witness_LoopsFollowTheirCondition :
    plain.rep = 0 ∧ Instr.lz ∈ [Instr.loop .z, loopName .z] ∧ condTrue .nz plain.flags ∧ ¬condTrue .z plain.flags :=
  ⟨rfl, by decide, rfl, fun h : false = true => nomatch h⟩

theorem witness_RefusedWhileRepeating :
    (∀ n ∈ [1, 257], { plain with rep := n }.rep ≠ 0) ∧
      Instr.mark ∈ [Instr.call 0, Instr.loop .z, Instr.mark, Instr.stra 1, Instr.rep 0, Instr.mvi 1 0] ∧
      condTrue .nc { plain with rep := 1 }.flags :=
  ⟨by decide, by decide, rfl⟩

theorem witness_RepetitionHoldsThePcThenMovesOn :
    { plain with rep := 2 }.rep ≠ 0 ∧ (1 < { plain with rep := 2 }.rep ∧
      ∃ t, execTimes 1 (.inc 1) { plain with rep := 2 } = .next t) ∧ (2 = { plain with rep := 2 }.rep ∧
      ∃ t, execTimes 2 (.inc 1) { plain with rep := 2 } = .next t) :=
  ⟨by decide, ⟨by decide, goes_on (by decide)⟩, rfl, goes_on (by decide)⟩

theorem witness_PopsAnswerTheLastPushes :
    16 ≤ (List.replicate 17 (0x123 : ProgAddr)).length ∧ 16 ≤ 16 ∧ 0 ≤ ([] : List ProgAddr).length ∧ 0 ≤ 16 := by
  decide

theorem witness_MviLoadsItsByte :
    (plain.rep = 0 ∧ plain.mviLat = none) ∧
      ({ plain with mviLat := some 1 }.rep = 0 ∧ { plain with mviLat := some 1 }.mviLat = some 1) ∧ (2 : Reg) ≠ 1 := by
  decide

theorem witness_MviPairLoadsTheConstant : plain.rep = 0 ∧ plain.mviLat = none := by decide

theorem witness_PortAccessesAreEvents :
    { plain with portIn := [0xABCD] }.portIn = [0xABCD] ∧ plain.portIn = [] := by
  decide

theorem witness_WrStoresOneWord :
    (small.getReg 1).toNat < small.cfg.memWords ∧ (small.getReg 2).toNat < small.cfg.memWords ∧
      (3 ≠ lowKey (small.getReg 2) ∧ 3 ≠ highKey (small.getReg 2)) := by
  decide

theorem witness_RdLoadsOneWord :
    ((small.getReg 1).toNat < small.cfg.memWords ∧ Memory.readWord small.mem (small.getReg 1) = some 0x2222) ∧
      ((small.getReg 2).toNat < small.cfg.memWords ∧ Memory.readWord small.mem (small.getReg 2) = some 0x1111) := by
  decide

theorem witness_XchgExchangesOneWord :
    (small.getReg sp).toNat < small.cfg.memWords ∧ Memory.readWord small.mem (small.getReg sp) = some 0x2222 ∧
      Instr.xtos 1 ∈ [Instr.xchg 1 sp, Instr.xtos 1] ∧ (Instr.xtos 1 = .xtos 1 → sp = sp) := by
  decide

theorem witness_MemoryAccessesStopOutside :
    (small.setReg 3 0x8000).cfg.memWords ≤ ((small.setReg 3 0x8000).getReg 3).toNat ∧
      (((small.setReg 3 0x7FFE).getReg 3).toNat < (small.setReg 3 0x7FFE).cfg.memWords ∧
        Memory.readWord (small.setReg 3 0x7FFE).mem ((small.setReg 3 0x7FFE).getReg 3) = none) := by
  decide

theorem witness_FetchesStopByName :
    ({ plain with cfg := { resetConfig with memWords := 0x10 } }.cfg.memWords ≤ (fetchAddr plain.pc).toNat) ∧
      ((fetchAddr plain.pc).toNat < plain.cfg.memWords ∧ Memory.readWord plain.mem (fetchAddr plain.pc) = none) ∧
      (Memory.readWord (fetching 0xF400).mem (fetchAddr plain.pc) = some 0xF400 ∧
        (fetchAddr plain.pc).toNat ∈ { fetching 0xF400 with stored := [0x10] }.stored ∧
        (fetchAddr plain.pc).toNat ∉ (fetching 0xF400).stored ∧ decode 0xF400 = .error .unusedEncoding) := by
  decide

theorem witness_PushThenPopCopiesTheRegister :
    (1 : Reg) ≠ sp ∧ (2 : Reg) ≠ sp ∧ (small.getReg sp - 1).toNat < small.cfg.memWords := by
  decide

end Sys2Proof.Tests
end

section
/-! SUPPORT. The frames of the claims: the rest of the state through each update, and what an instruction leaves that
ends in one of the shared operations `writeReg` and `writeC`. -/

namespace Sys2Proof.Claims

open Sys2Proof.Machine

/-! The rest of the state through each update. -/

@[simp] theorem keepsRest_refl (s : State) : KeepsRest s s :=
  ⟨⟨fun _ => rfl, rfl⟩, ⟨rfl, rfl⟩, rfl, ⟨rfl, rfl, rfl⟩, ⟨rfl, rfl⟩, rfl, rfl⟩

@[simp] theorem keepsRest_setReg (s t : State) (a : Reg) (v : Word) : KeepsRest s (t.setReg a v) ↔ KeepsRest s t :=
  Iff.rfl

@[simp] theorem keepsRest_setC (s t : State) (c : Bool) : KeepsRest s (t.setC c) ↔ KeepsRest s t :=
  Iff.rfl

@[simp] theorem keepsRest_retire (s t : State) (target : ProgAddr) : KeepsRest s (retire target t) ↔ KeepsRest s t :=
  Iff.rfl

/-! From the frame with the counters of R10 to the frame that leaves them to O13. -/

theorem Completes.imp {i : Instr} {s : State} {P Q : State → Prop} (hPQ : ∀ t, P t → Q t) (h : Completes i s P) :
    Completes i s Q := by
  obtain ⟨t, hexec, hP⟩ := h
  exact ⟨t, hexec, hPQ t hP⟩

theorem setsReg_of_writesReg {a : Reg} {v : Word} {f : Flags} {s t : State} (h : WritesReg a v f s t) :
    SetsReg a v f s t := by
  obtain ⟨hval, hflags, hregs, ⟨hpc, -⟩, hrest⟩ := h
  exact ⟨hval, hflags, hregs, hpc, hrest⟩

theorem setsFlags_of_writesFlags {f : Flags} {s t : State} (h : WritesFlags f s t) : SetsFlags f s t := by
  obtain ⟨hflags, hregs, ⟨hpc, -⟩, hrest⟩ := h
  exact ⟨hflags, hregs, hpc, hrest⟩

/-! What an instruction leaves that ends in a shared operation. -/

/-- R10, R101. Whatever was written to the registers and flags before, `finish` makes the common updates. -/
theorem advances_retire (s t : State) (hrep : t.rep = s.rep) (hwait : t.divWait = s.divWait) :
    Advances s (retire (next s) t) :=
  ⟨rfl, by simp [hrep], rfl, by simp [hwait]⟩

theorem completes_writeReg {i : Instr} {a : Reg} {v : Word} {s : State} (h : exec i s = writeReg a v s) :
    Completes i s (WritesReg a v s.flags s) := by
  refine ⟨retire (next s) (s.setReg a v), h.trans (writeReg_eq a v s), ?_, rfl, ?_, ?_, ?_⟩
  · simp
  · intro r hr
    simp [getReg_setReg_ne s v hr]
  · exact advances_retire s (s.setReg a v) rfl rfl
  · simp

theorem completes_writeC {i : Instr} {c : Bool} {s : State} (h : exec i s = writeC c s) :
    Completes i s (WritesFlags { s.flags with c := c } s) := by
  refine ⟨retire (next s) (s.setC c), h.trans (writeC_eq c s), rfl, ?_, ?_, ?_⟩
  · intro r
    simp
  · exact advances_retire s (s.setC c) rfl rfl
  · simp

end Sys2Proof.Claims
end

section
/-! SUPPORT. The bytes of R170 to R174 as numbers. -/

namespace Sys2Proof.Machine

theorem withLowByte_eq_ofNat {v : Word} {y : BitVec 8} {n : Nat} (h : y.toNat = n) :
    withLowByte v y = BitVec.ofNat 16 (v.toNat / 256 * 256 + n) := by
  rw [← h, ← withLowByte_toNat, BitVec.ofNat_toNat, BitVec.setWidth_eq]

theorem neg_lowByte_toNat (v : Word) : (-lowByte v).toNat = (256 - v.toNat % 256) % 256 := by
  rw [BitVec.toNat_neg, lowByte_toNat]

theorem lowByte_add_lowByte_toNat (v w : Word) :
    (lowByte v + lowByte w).toNat = (v.toNat % 256 + w.toNat % 256) % 256 := by
  rw [BitVec.toNat_add, lowByte_toNat, lowByte_toNat]

theorem lowByte_sub_lowByte_toNat (v w : Word) :
    (lowByte v - lowByte w).toNat = (v.toNat % 256 + 256 - w.toNat % 256) % 256 := by
  rw [BitVec.toNat_sub, lowByte_toNat, lowByte_toNat]
  omega

end Sys2Proof.Machine
end

section
/-! SUPPORT. The byte forms (R170 to R174) and the carry forms (R156, R157, R210): each instruction's meaning as a
shared operation. -/

namespace Sys2Proof.Machine

theorem exec_mov8 (a b : Reg) (s : State) :
    exec (.mov8 a b) s = writeReg a (withLowByte (s.getReg a) (lowByte (s.getReg b))) s := rfl

theorem exec_mvn8 (a b : Reg) (s : State) :
    exec (.mvn8 a b) s = writeReg a (withLowByte (s.getReg a) (-lowByte (s.getReg b))) s := rfl

theorem exec_neg8 (a : Reg) (s : State) :
    exec (.neg8 a) s = writeReg a (withLowByte (s.getReg a) (-lowByte (s.getReg a))) s := rfl

theorem exec_add8 (a b : Reg) (s : State) :
    exec (.add8 a b) s = writeReg a (withLowByte (s.getReg a) (lowByte (s.getReg a) + lowByte (s.getReg b))) s := rfl

theorem exec_sub8 (a b : Reg) (s : State) :
    exec (.sub8 a b) s = writeReg a (withLowByte (s.getReg a) (lowByte (s.getReg a) - lowByte (s.getReg b))) s := rfl

theorem exec_clc (s : State) : exec .clc s = writeC false s := rfl

theorem exec_stc (s : State) : exec .stc s = writeC true s := rfl

theorem exec_btst (a : Reg) (k : BitVec 4) (s : State) :
    exec (.btst a k) s = writeC ((s.getReg a).getLsbD k.toNat) s := rfl

end Sys2Proof.Machine
end

section
/-! The byte forms and the carry forms (42_arithmetic.md, 44_shift_rotate.md): the statements O21 and O18. -/

namespace Sys2Proof.Claims

open Sys2Proof.Machine

/-- R170 to R174. An instruction that replaces the low byte of register A by a byte of value `n`. -/
theorem completes_withLowByte {i : Instr} {a : Reg} {y : BitVec 8} {n : Nat} {s : State}
    (hexec : exec i s = writeReg a (withLowByte (s.getReg a) y) s) (hy : y.toNat = n) :
    Completes i s (SetsReg a (BitVec.ofNat 16 ((s.getReg a).toNat / 256 * 256 + n)) s.flags s) := by
  rw [withLowByte_eq_ofNat hy] at hexec
  exact (completes_writeReg hexec).imp fun _ => setsReg_of_writesReg

/-- An instruction that ends in `writeC` changes no flag but C. -/
theorem completes_setsC {i : Instr} {c : Bool} {s : State} (hexec : exec i s = writeC c s) :
    Completes i s (SetsFlags { s.flags with c := c } s) :=
  (completes_writeC hexec).imp fun _ => setsFlags_of_writesFlags

/-- Settles O21: each form replaces the low byte alone (`completes_withLowByte`), by a byte whose value is the lemma
named beside it. -/
theorem byteFormsChangeTheLowByte : Obligations.ByteFormsChangeTheLowByte := by
  intro s a b
  refine ⟨⟨aluWord_toNat b a (by decide), ?mov8⟩, ⟨aluWord_toNat b a (by decide), ?mvn8⟩,
    ⟨wordOf_toNat (by omega), ?neg8⟩, ⟨aluWord_toNat b a (by decide), ?add8⟩,
    ⟨aluWord_toNat b a (by decide), ?sub8⟩⟩
  case mov8 => exact completes_withLowByte (exec_mov8 a b s) (lowByte_toNat _)
  case mvn8 => exact completes_withLowByte (exec_mvn8 a b s) (neg_lowByte_toNat _)
  case neg8 => exact completes_withLowByte (exec_neg8 a s) (neg_lowByte_toNat _)
  case add8 => exact completes_withLowByte (exec_add8 a b s) (lowByte_add_lowByte_toNat _ _)
  case sub8 => exact completes_withLowByte (exec_sub8 a b s) (lowByte_sub_lowByte_toNat _ _)

/-- Settles O18: each form ends in `writeC`, with the value of C its rule gives. -/
theorem carryFormsWriteCarryOnly : Obligations.CarryFormsWriteCarryOnly := by
  intro s a k
  refine ⟨⟨wordOf_toNat (by decide), ?clc⟩, ⟨wordOf_toNat (by decide), ?stc⟩,
    ⟨aluWord_toNat k a (by decide), ?btst⟩⟩
  case clc => exact completes_setsC (exec_clc s)
  case stc => exact completes_setsC (exec_stc s)
  case btst => exact completes_setsC (exec_btst a k s)

end Sys2Proof.Claims
end

section
/-! SUPPORT. A shift by one place as a rotation, as a logical or arithmetic shift, and as a number: what the bit
shifted in decides. -/

namespace Sys2Proof.Machine

/-- A word is the shift of `v` to the right when its bits are. -/
theorem shiftRight1_eq_of_bits {top : Bool} {v w : Word} (hbelow : ∀ n < 15, w.getLsbD n = v.getLsbD (n + 1))
    (htop : w.getLsbD 15 = top) : shiftRight1 top v = w := by
  refine BitVec.eq_of_getLsbD_eq fun n hn => ?_
  rw [shiftRight1_getLsbD]
  by_cases h : n < 15
  · simp [h, hbelow n h, Nat.add_comm]
  · obtain rfl : n = 15 := by omega
    rw [htop]
    simp

/-- A word is the shift of `v` to the left when its bits are. -/
theorem shiftLeft1_eq_of_bits {low : Bool} {v w : Word} (habove : ∀ n < 15, w.getLsbD (n + 1) = v.getLsbD n)
    (hlow : w.getLsbD 0 = low) : shiftLeft1 v low = w := by
  refine BitVec.eq_of_getLsbD_eq fun n hn => ?_
  rw [shiftLeft1_getLsbD]
  cases n with
  | zero => rw [hlow]; simp
  | succ n =>
    have h : n < 15 := by omega
    simp [h, habove n h]

theorem shiftRight1_bit0_eq_rotateRight (v : Word) : shiftRight1 (v.getLsbD 0) v = v.rotateRight 1 := by
  refine shiftRight1_eq_of_bits (fun n hn => ?_) ?_
  · simp [BitVec.getLsbD_rotateRight, hn, Nat.add_comm]
  · simp

theorem shiftLeft1_bit15_eq_rotateLeft (v : Word) : shiftLeft1 v (v.getLsbD 15) = v.rotateLeft 1 := by
  refine shiftLeft1_eq_of_bits (fun n hn => ?_) ?_
  · simp [show n < 16 by omega, show n + 1 < 16 by omega]
  · simp

theorem shiftRight1_false_eq_ushiftRight (v : Word) : shiftRight1 false v = v >>> 1 := by
  refine shiftRight1_eq_of_bits (fun n _ => ?_) ?_
  · simp [Nat.add_comm]
  · simp

theorem shiftLeft1_false_eq_shiftLeft (v : Word) : shiftLeft1 v false = v <<< 1 := by
  refine shiftLeft1_eq_of_bits (fun n hn => ?_) ?_
  · simp [show n < 16 by omega, show n + 1 < 16 by omega]
  · simp

theorem shiftRight1_bit15_eq_sshiftRight (v : Word) : shiftRight1 (v.getLsbD 15) v = v.sshiftRight 1 := by
  refine shiftRight1_eq_of_bits (fun n hn => ?_) ?_
  · simp [BitVec.getElem_sshiftRight, show n < 16 by omega, show n + 1 < 16 by omega, Nat.add_comm]
  · rw [BitVec.getLsbD_sshiftRight, BitVec.msb_eq_getLsbD_last]
    simp

theorem shiftRight1_eq_ofNat (top : Bool) (v : Word) :
    shiftRight1 top v = BitVec.ofNat 16 (top.toNat * 32768 + v.toNat / 2) := by
  rw [← shiftRight1_toNat, BitVec.ofNat_toNat, BitVec.setWidth_eq]

theorem shiftLeft1_eq_ofNat (v : Word) (low : Bool) :
    shiftLeft1 v low = BitVec.ofNat 16 (v.toNat * 2 + low.toNat) :=
  BitVec.eq_of_toNat_eq (shiftLeft1_toNat v low)

end Sys2Proof.Machine
end

section
/-! SUPPORT. The named shifts (R225 to R231): the bit each shifts in and the bit each leaves in C. -/

namespace Sys2Proof.Machine

theorem exec_ror (a : Reg) (s : State) :
    exec (.ror a) s =
      finish ((s.setReg a (shiftRight1 ((s.getReg a).getLsbD 0) (s.getReg a))).setC ((s.getReg a).getLsbD 0)) := rfl

theorem exec_rol (a : Reg) (s : State) :
    exec (.rol a) s =
      finish ((s.setReg a (shiftLeft1 (s.getReg a) ((s.getReg a).getLsbD 15))).setC ((s.getReg a).getLsbD 15)) := rfl

theorem exec_rrc (a : Reg) (s : State) :
    exec (.rrc a) s = finish ((s.setReg a (shiftRight1 s.flags.c (s.getReg a))).setC ((s.getReg a).getLsbD 0)) := rfl

theorem exec_rlc (a : Reg) (s : State) :
    exec (.rlc a) s = finish ((s.setReg a (shiftLeft1 (s.getReg a) s.flags.c)).setC ((s.getReg a).getLsbD 15)) := rfl

theorem exec_lsr (a : Reg) (s : State) :
    exec (.lsr a) s = finish ((s.setReg a (shiftRight1 false (s.getReg a))).setC ((s.getReg a).getLsbD 0)) := rfl

theorem exec_lsl (a : Reg) (s : State) :
    exec (.lsl a) s = finish ((s.setReg a (shiftLeft1 (s.getReg a) false)).setC ((s.getReg a).getLsbD 15)) := rfl

theorem exec_asr (a : Reg) (s : State) :
    exec (.asr a) s =
      finish ((s.setReg a (shiftRight1 ((s.getReg a).getLsbD 15) (s.getReg a))).setC ((s.getReg a).getLsbD 0)) := rfl

end Sys2Proof.Machine
end

section
/-! The named shifts (44_shift_rotate.md): the statement O29. -/

namespace Sys2Proof.Claims

open Sys2Proof.Machine

/-- What an instruction leaves that writes register A and C and ends. -/
theorem completes_writeRegC {i : Instr} {a : Reg} {v : Word} {c : Bool} {s : State}
    (h : exec i s = finish ((s.setReg a v).setC c)) :
    Completes i s (WritesReg a v { s.flags with c := c } s) := by
  refine ⟨retire (next s) ((s.setReg a v).setC c), h.trans (finish_eq _), ?_, rfl, ?_, ?_, ?_⟩
  · simp
  · intro r hr
    simp [getReg_setReg_ne s v hr]
  · exact advances_retire s ((s.setReg a v).setC c) rfl rfl
  · simp

/-- R225 to R231. An instruction that writes the word `w` to register A, where `w` is the value `v` of its rule, and
writes C. -/
theorem completes_shift {i : Instr} {a : Reg} {v w : Word} {c : Bool} {s : State}
    (hexec : exec i s = finish ((s.setReg a w).setC c)) (hw : w = v) :
    Completes i s (SetsReg a v { s.flags with c := c } s) := by
  rw [hw] at hexec
  exact (completes_writeRegC hexec).imp fun _ => setsReg_of_writesReg

/-- Settles O29: each form shifts one place and leaves the bit shifted out in C (`exec_ror` and its like); the bit it
shifts in makes of that the rotation, shift or number its rule names, by the lemma named beside it. -/
theorem namedShiftsShiftOnePlace : Obligations.NamedShiftsShiftOnePlace := by
  intro s a
  refine ⟨⟨wordOf_toNat (by omega), ?ror⟩, ⟨wordOf_toNat (by omega), ?rol⟩, ⟨wordOf_toNat (by omega), ?rrc⟩,
    ⟨wordOf_toNat (by omega), ?rlc⟩, ⟨wordOf_toNat (by omega), ?lsr⟩, ⟨wordOf_toNat (by omega), ?lsl⟩,
    ⟨wordOf_toNat (by omega), ?asr⟩⟩
  case ror => exact completes_shift (exec_ror a s) (shiftRight1_bit0_eq_rotateRight _)
  case rol => exact completes_shift (exec_rol a s) (shiftLeft1_bit15_eq_rotateLeft _)
  case rrc => exact completes_shift (exec_rrc a s) (shiftRight1_eq_ofNat _ _)
  case rlc => exact completes_shift (exec_rlc a s) (shiftLeft1_eq_ofNat _ _)
  case lsr => exact completes_shift (exec_lsr a s) (shiftRight1_false_eq_ushiftRight _)
  case lsl => exact completes_shift (exec_lsl a s) (shiftLeft1_false_eq_shiftLeft _)
  case asr => exact completes_shift (exec_asr a s) (shiftRight1_bit15_eq_sshiftRight _)

end Sys2Proof.Claims
end

section
/-! SUPPORT. The fields of each form of word the encoder makes (R71 to R80): what the decoder reads of it. -/

namespace Sys2Proof

/-- Bit `k` of a word, as a digit of its number. -/
theorem getLsbD_eq_decide (w : Word) (k : Nat) : w.getLsbD k = decide (w.toNat / 2 ^ k % 2 = 1) :=
  Nat.testBit_eq_decide_div_mod_eq

/-- Bit 11, which splits rows 6, B and C, is the column's top bit. -/
theorem bit11_eq (w : Word) : w[11] = (colOf w)[3] := by
  simp [colOf]

/-! ALU words (R77). -/

@[simp] theorem rowOf_aluWord {top : Nat} (b a : BitVec 4) (h : top < 256) :
    rowOf (aluWord top b a) = BitVec.ofNat 4 (top / 16) := by
  obtain ⟨hrow, -⟩ := fields_aluWord b a h
  exact hrow

@[simp] theorem colOf_aluWord {top : Nat} (b a : BitVec 4) (h : top < 256) :
    colOf (aluWord top b a) = BitVec.ofNat 4 top := by
  obtain ⟨-, hcol, -⟩ := fields_aluWord b a h
  exact hcol

@[simp] theorem regB_aluWord {top : Nat} (b a : BitVec 4) (h : top < 256) : regB (aluWord top b a) = b := by
  obtain ⟨-, -, hb, -⟩ := fields_aluWord b a h
  exact hb

@[simp] theorem constK_aluWord {top : Nat} (b a : BitVec 4) (h : top < 256) : constK (aluWord top b a) = b := by
  obtain ⟨-, -, -, hk, -⟩ := fields_aluWord b a h
  exact hk

@[simp] theorem regA_aluWord {top : Nat} (b a : BitVec 4) (h : top < 256) : regA (aluWord top b a) = a := by
  obtain ⟨-, -, -, -, ha⟩ := fields_aluWord b a h
  exact ha

/-! Immediate-data words (R75): the base is a row. -/

@[simp] theorem rowOf_immWord {base : Nat} (imm : BitVec 8) (a : Reg) (hrow : base % 4096 = 0) (hle : base ≤ 61440) :
    rowOf (immWord base imm a) = BitVec.ofNat 4 (base / 4096) := by
  apply BitVec.eq_of_toNat_eq
  rw [rowOf_toNat, immWord_toNat imm a hle, BitVec.toNat_ofNat]
  omega

@[simp] theorem imm8Of_immWord {base : Nat} (imm : BitVec 8) (a : Reg) (hrow : base % 4096 = 0) (hle : base ≤ 61440) :
    imm8Of (immWord base imm a) = imm := by
  apply BitVec.eq_of_toNat_eq
  rw [imm8Of_toNat, immWord_toNat imm a hle]
  omega

@[simp] theorem regA_immWord {base : Nat} (imm : BitVec 8) (a : Reg) (hrow : base % 4096 = 0) (hle : base ≤ 61440) :
    regA (immWord base imm a) = a := by
  apply BitVec.eq_of_toNat_eq
  rw [regA_toNat, immWord_toNat imm a hle]
  omega

/-! I/O words (R76): the base is half a row, which bit 11 names. -/

@[simp] theorem rowOf_portWord {base : Nat} (p : Port) (a : Reg) (hhalf : base % 2048 = 0) (hle : base ≤ 63488) :
    rowOf (portWord base p a) = BitVec.ofNat 4 (base / 4096) := by
  apply BitVec.eq_of_toNat_eq
  rw [rowOf_toNat, portWord_toNat p a hle, BitVec.toNat_ofNat]
  omega

@[simp] theorem bit11_portWord {base : Nat} (p : Port) (a : Reg) (hhalf : base % 2048 = 0) (hle : base ≤ 63488) :
    (portWord base p a)[11] = decide (base / 2048 % 2 = 1) := by
  rw [← BitVec.getLsbD_eq_getElem, getLsbD_eq_decide, portWord_toNat p a hle, decide_eq_decide]
  omega

@[simp] theorem portOf_portWord {base : Nat} (p : Port) (a : Reg) (hhalf : base % 2048 = 0) (hle : base ≤ 63488) :
    portOf (portWord base p a) = p := by
  apply BitVec.eq_of_toNat_eq
  rw [portOf_toNat, portWord_toNat p a hle]
  omega

@[simp] theorem regA_portWord {base : Nat} (p : Port) (a : Reg) (hhalf : base % 2048 = 0) (hle : base ≤ 63488) :
    regA (portWord base p a) = a := by
  apply BitVec.eq_of_toNat_eq
  rw [regA_toNat, portWord_toNat p a hle]
  omega

/-! Flow words (R73): JMP has a displacement in bits 8:0, RET and LOOP tell themselves apart by bit 8. -/

theorem condOf_flowWord {base low : Nat} (cc : Cond) (hbase : base ≤ 0x5100) (hlow : base % 4096 + low < 512) :
    condOf (flowWord base cc low) = cc := by
  have hcode := code_lt cc
  have hbits : (flowWord base cc low).extractLsb' 9 3 = BitVec.ofNat 3 cc.code := by
    apply BitVec.eq_of_toNat_eq
    rw [Machine.extractLsb'_toNat, flowWord_toNat cc (by omega), BitVec.toNat_ofNat]
    omega
  rw [condOf, hbits, ofCode_code]

theorem rowOf_flowWord {base low : Nat} (cc : Cond) (hbase : base ≤ 0x5100) (hlow : base % 4096 + low < 512) :
    rowOf (flowWord base cc low) = BitVec.ofNat 4 (base / 4096) := by
  have hcode := code_lt cc
  apply BitVec.eq_of_toNat_eq
  rw [rowOf_toNat, flowWord_toNat cc (by omega), BitVec.toNat_ofNat]
  omega

end Sys2Proof
end

section
/-! SUPPORT. Encode, then decode: each machine instruction's word decodes to it. The rows of the opcode matrix that hold
ALU words only are read by their fields' lemmas; each other form of word has a lemma of its own. -/

namespace Sys2Proof

/-- R79. Bits 15:14 clear: CALL. -/
theorem decode_of_row_lt_four {w : Word} (h : rowOf w < 4#4) : decode w = .ok (.call (absOf w)) := by
  have hrow : rowOf w = 0#4 ∨ rowOf w = 1#4 ∨ rowOf w = 2#4 ∨ rowOf w = 3#4 := by bv_omega
  rcases hrow with h | h | h | h <;> simp [decode, h]

theorem decode_encode_call (target : ProgAddr) : decode (encode (.call target)) = .ok (.call target) := by
  have hw : (encode (.call target)).toNat = target.toNat := wordOf_toNat (by omega)
  have hrow : rowOf (encode (.call target)) < 4#4 := by
    rw [BitVec.lt_def, rowOf_toNat, hw]
    simp only [BitVec.reduceToNat]
    omega
  have habs : absOf (encode (.call target)) = target := by
    apply BitVec.eq_of_toNat_eq
    rw [absOf_toNat, hw]
    omega
  rw [decode_of_row_lt_four hrow, habs]

theorem decode_encode_jmp (cc : Cond) (rel : BitVec 9) : decode (encode (.jmp cc rel)) = .ok (.jmp cc rel) := by
  have hrow : rowOf (flowWord 0x4000 cc rel.toNat) = 4#4 := rowOf_flowWord cc (by decide) (by omega)
  have hcc : condOf (flowWord 0x4000 cc rel.toNat) = cc := condOf_flowWord cc (by decide) (by omega)
  have hrel : relOf (flowWord 0x4000 cc rel.toNat) = rel := by
    apply BitVec.eq_of_toNat_eq
    rw [relOf_toNat, flowWord_toNat cc (by omega)]
    omega
  simp [encode, decode, hrow, hcc, hrel]

/-- R73. The word of RET and LOOP: bits 7:0 are clear, bit 8 is the base's. -/
theorem decode_flowWord_row5 (cc : Cond) (bit8 : Bool) :
    decode (flowWord (0x5000 + bit8.toNat * 256) cc 0) = .ok (if bit8 then .loop cc else .ret cc) := by
  have hb := bit8.toNat_le
  have hw := flowWord_toNat cc (show 0x5000 + bit8.toNat * 256 + 0 < 61440 by omega)
  have hrow : rowOf (flowWord (0x5000 + bit8.toNat * 256) cc 0) = 5#4 := by
    rw [rowOf_flowWord cc (by omega) (by omega), show (0x5000 + bit8.toNat * 256) / 4096 = 5 by omega]
  have hlow : lowByteOf (flowWord (0x5000 + bit8.toNat * 256) cc 0) = 0#8 := by
    apply BitVec.eq_of_toNat_eq
    rw [lowByteOf_toNat, hw, BitVec.toNat_ofNat]
    omega
  have hbit : (flowWord (0x5000 + bit8.toNat * 256) cc 0).getLsbD 8 = bit8 := by
    rw [getLsbD_eq_decide, hw]
    cases bit8 <;> simp <;> omega
  have hcc : condOf (flowWord (0x5000 + bit8.toNat * 256) cc 0) = cc := condOf_flowWord cc (by omega) (by omega)
  simp only [decode, decodeReturn, hrow, hlow, hbit, hcc]
  cases bit8 <;> rfl

theorem decode_encode_stra (a : Reg) : decode (encode (.stra a)) = .ok (.stra a) := by
  have hword : encode (.stra a) = aluWord 0x64 0#4 a := rfl
  have hblank : (aluWord 0x64 0#4 a).extractLsb' 4 6 = 0#6 := by
    apply BitVec.eq_of_toNat_eq
    rw [Machine.extractLsb'_toNat, aluWord_toNat 0#4 a (by decide)]
    simp
    omega
  have hten : (aluWord 0x64 0#4 a)[10] = true := by
    rw [← BitVec.getLsbD_eq_getElem, getLsbD_eq_decide, aluWord_toNat 0#4 a (by decide)]
    simp
    omega
  rw [hword]
  simp [decode, decodeMark, bit11_eq, hblank, hten]

theorem decode_encode_rep (count : BitVec 8) : decode (encode (.rep count)) = .ok (.rep count) := by
  have hw : (encode (.rep count)).toNat = 0x6800 + count.toNat := wordOf_toNat (by omega)
  have hrow : rowOf (encode (.rep count)) = 6#4 := by
    apply BitVec.eq_of_toNat_eq
    rw [rowOf_toNat, hw]
    simp
    omega
  have hcol : colOf (encode (.rep count)) = 8#4 := by
    apply BitVec.eq_of_toNat_eq
    rw [colOf_toNat, hw]
    simp
    omega
  have hcount : lowByteOf (encode (.rep count)) = count := by
    apply BitVec.eq_of_toNat_eq
    rw [lowByteOf_toNat, hw]
    omega
  simp [decode, decodeMark, bit11_eq, hrow, hcol, hcount]

/-- Each machine instruction's word decodes to it, by the form of its word. -/
theorem decode_encode_of_machine {i : Instr} (hmachine : i.canon = i) : decode (encode i) = .ok i := by
  cases i with
  | call target => exact decode_encode_call target
  | jmp cc rel => exact decode_encode_jmp cc rel
  | ret cc => exact decode_flowWord_row5 cc false
  | loop cc => exact decode_flowWord_row5 cc true
  | stra a => exact decode_encode_stra a
  | rep count => exact decode_encode_rep count
  | mvi a imm | adi a imm | cpi a imm => simp [encode, decode]
  | out a p => simp [encode, decode, decodeCompare]
  | inp a p => simp [encode, decode, decodeAccess]
  | mark | noAccess | clc | stc | fdiv => decide
  | umul a b | umln a b | umac a b | umsb a b | mul a b | muln a b | mac a b | msub a b | idiv a b | btst a b =>
    simp [encode, decode, decodeMultiply]
  | cmp a b | cmpc a b => simp [encode, decode, decodeCompare, bit11_eq]
  | wr a b | rd a b | xchg a b => simp [encode, decode, decodeAccess, bit11_eq]
  | mov a b | mvn a b | add a b | sub a b | movc a b | mvnc a b | adc a b | sbc a b | mov8 a b | mvn8 a b | add8 a b
  | sub8 a b | mov4 a b | mvn4 a b | add4 a b | sub4 a b => simp [encode, decode, decodeArith]
  | not a b | and a b | or a b | xor a b | mask a b | rst a b | setb a b | inv a b | mlls a b | mhls a b | ins4 a b
  | ins8 a b | in12 a b | rev a b | shr a b | shl a b => simp [encode, decode, decodeLogic]
  | lpl a | lph a | lq a | lr a => simp [encode, decode, decodeUnitRead]
  | _ => cases hmachine

end Sys2Proof

namespace Sys2Proof.Laws.WordIsCanonical

/-- The family for every instruction. -/
theorem all : ∀ i : Instr, Statement i
  | .call t => call t | .jmp cc r => jmp cc r | .ret cc => ret cc | .loop cc => loop cc | .mark => mark
  | .stra a => stra a | .rep n => rep n | .mvi a m => mvi a m | .out a p => out a p | .inp a p => inp a p
  | .wr a b => wr a b | .rd a b => rd a b | .xchg a b => xchg a b | .noAccess => noAccess | .adi a m => adi a m
  | .cpi a m => cpi a m | .clc => clc | .stc => stc | .cmp a b => cmp a b | .cmpc a b => cmpc a b
  | .mov a b => mov a b | .mvn a b => mvn a b | .add a b => add a b | .sub a b => sub a b | .movc a b => movc a b
  | .mvnc a b => mvnc a b | .adc a b => adc a b | .sbc a b => sbc a b | .mov8 a b => mov8 a b
  | .mvn8 a b => mvn8 a b | .add8 a b => add8 a b | .sub8 a b => sub8 a b | .mov4 a b => mov4 a b
  | .mvn4 a b => mvn4 a b | .add4 a b => add4 a b | .sub4 a b => sub4 a b | .not a b => not a b
  | .and a b => and a b | .or a b => or a b | .xor a b => xor a b | .mask a k => mask a k | .rst a k => rst a k
  | .setb a k => setb a k | .inv a k => inv a k | .btst a k => btst a k | .mlls a b => mlls a b
  | .mhls a b => mhls a b | .ins4 a b => ins4 a b | .ins8 a b => ins8 a b | .in12 a b => in12 a b
  | .rev a b => rev a b | .shr a k => shr a k | .shl a k => shl a k | .umul a b => umul a b | .umln a b => umln a b
  | .umac a b => umac a b | .umsb a b => umsb a b | .mul a b => mul a b | .muln a b => muln a b
  | .mac a b => mac a b | .msub a b => msub a b | .lpl a => lpl a | .lph a => lph a | .idiv a b => idiv a b
  | .fdiv => fdiv | .lq a => lq a | .lr a => lr a | .jmpAlways r => jmpAlways r | .nop r => nop r | .jv r => jv r
  | .jnv r => jnv r | .jz r => jz r | .jnz r => jnz r | .jc r => jc r | .jnc r => jnc r | .retAlways => retAlways
  | .retNever => retNever | .rv => rv | .rnv => rnv | .rz => rz | .rnz => rnz | .rc => rc | .rnc => rnc
  | .loopAlways => loopAlways | .loopNever => loopNever | .lv => lv | .lnv => lnv | .lz => lz | .lnz => lnz
  | .lc => lc | .lnc => lnc | .rpt n => rpt n | .sbi a c => sbi a c | .inc a => inc a | .dec a => dec a
  | .cpz a => cpz a | .xtos a => xtos a | .neg a => neg a | .negc a => negc a | .neg8 a => neg8 a
  | .neg4 a => neg4 a | .sxl a => sxl a | .sxh a => sxh a | .ror4 a => ror4 a | .swap a => swap a
  | .rol4 a => rol4 a | .ror a => ror a | .asr a => asr a | .rrc a => rrc a | .lsr a => lsr a | .rol a => rol a
  | .rlc a => rlc a | .lsl a => lsl a

end Sys2Proof.Laws.WordIsCanonical
end

section
/-! Encode, then decode (30_encoding.md): the statement O3. -/

namespace Sys2Proof.Claims

/-- Settles O3: an instruction has the word of the machine instruction it stands for, and a machine instruction's word
decodes to it. -/
theorem decodeOfEncodeIsTheMachineInstruction : Obligations.DecodeOfEncodeIsTheMachineInstruction := by
  intro i hwf
  obtain ⟨-, hmachine, hword⟩ := Laws.WordIsCanonical.all i hwf
  rw [← hword]
  exact decode_encode_of_machine hmachine

end Sys2Proof.Claims
end

section
/-! SUPPORT. Decode, then encode: the word of each form from its fields, and row by row the machine instruction that an
accepted word is the word of. -/

namespace Sys2Proof

/-- The word is that of a well-formed machine instruction. -/
def IsWordOf (w : Word) (i : Instr) : Prop := encode i = w ∧ i.wf = true ∧ i.canon = i

/-! The word of each form, from its fields. -/

theorem wordOf_eq {n : Nat} {w : Word} (h : n = w.toNat) : wordOf n = w := by
  rw [h, wordOf, BitVec.ofNat_toNat, BitVec.setWidth_eq]

theorem row_add_col (w : Word) : (rowOf w).toNat * 16 + (colOf w).toNat = w.toNat / 256 := by
  rw [rowOf_toNat, colOf_toNat]
  omega

theorem aluWord_of_fields {w : Word} {row col : BitVec 4} (hrow : rowOf w = row) (hcol : colOf w = col) :
    aluWord (row.toNat * 16 + col.toNat) (regB w) (regA w) = w := by
  refine wordOf_eq ?_
  rw [← hrow, ← hcol, row_add_col, regB_toNat, regA_toNat]
  omega

/-- A word without operands is known by its row, its column and its low byte. -/
theorem wordOf_of_bytes {w : Word} {row col : BitVec 4} {low : BitVec 8} (hrow : rowOf w = row) (hcol : colOf w = col)
    (hlow : lowByteOf w = low) : wordOf ((row.toNat * 16 + col.toNat) * 256 + low.toNat) = w := by
  refine wordOf_eq ?_
  rw [← hrow, ← hcol, ← hlow, row_add_col, lowByteOf_toNat]
  omega

theorem immWord_of_fields {w : Word} {row : BitVec 4} (hrow : rowOf w = row) :
    immWord (row.toNat * 4096) (imm8Of w) (regA w) = w := by
  refine wordOf_eq ?_
  rw [← hrow, rowOf_toNat, imm8Of_toNat, regA_toNat]
  omega

@[simp] theorem code_ofCode (c : BitVec 3) : (Cond.ofCode c).code = c.toNat := by
  revert c
  decide

theorem condOf_code (w : Word) : (condOf w).code = w.toNat / 512 % 8 := by
  simp [condOf, Nat.shiftRight_eq_div_pow]

/-! The rows. In a row's last, unnamed column every other column is excluded. -/

theorem isWordOf_of_decodeReturn {w : Word} {i : Instr} (hrow : rowOf w = 5#4) (h : decodeReturn w = .ok i) :
    IsWordOf w i := by
  have hnum := rowOf_toNat w
  have hcode := condOf_code w
  have hlow := lowByteOf_toNat w
  rw [hrow] at hnum
  simp only [decodeReturn, getLsbD_eq_decide, decide_eq_true_eq, ite_not] at h
  split at h
  · next hzero =>
    rw [hzero] at hlow
    simp only [BitVec.reduceToNat] at hnum hlow
    split at h <;> cases h
    · exact ⟨wordOf_eq (by omega), rfl, rfl⟩
    · exact ⟨wordOf_eq (by omega), rfl, rfl⟩
  · cases h

theorem isWordOf_of_decodeMark {w : Word} {i : Instr} (hrow : rowOf w = 6#4) (h : decodeMark w = .ok i) :
    IsWordOf w i := by
  have hnum := rowOf_toNat w
  have hcol := colOf_toNat w
  have hreg := regA_toNat w
  have hlow := lowByteOf_toNat w
  rw [hrow] at hnum
  simp only [decodeMark, getLsbD_eq_decide, decide_eq_true_eq, ← BitVec.toNat_inj, Machine.extractLsb'_toNat,
    BitVec.reduceToNat] at h hnum
  split at h
  · split at h
    · cases h
      exact ⟨wordOf_eq (by omega), rfl, rfl⟩
    · cases h
  · split at h
    · split at h
      · cases h
        exact ⟨wordOf_eq (by omega), rfl, rfl⟩
      · cases h
    · split at h
      · cases h
        exact ⟨wordOf_eq (by omega), rfl, rfl⟩
      · cases h

theorem isWordOf_of_decodeMultiply {w : Word} {i : Instr} (hrow : rowOf w = 0xA#4) (h : decodeMultiply w = .ok i) :
    IsWordOf w i := by
  unfold decodeMultiply at h
  split at h
  case h_9 hcol =>
    split at h
    · next hzero =>
      have hword := wordOf_of_bytes hrow hcol hzero
      cases h
      exact ⟨hword, rfl, rfl⟩
    · cases h
  case h_12 hcol =>
    split at h
    · next hzero =>
      have hword := wordOf_of_bytes hrow hcol hzero
      cases h
      exact ⟨hword, rfl, rfl⟩
    · split at h
      · next hone =>
        have hword := wordOf_of_bytes hrow hcol hone
        cases h
        exact ⟨hword, rfl, rfl⟩
      · cases h
  case h_13 => cases h
  all_goals
    rename_i hcol
    cases h
    have hword := aluWord_of_fields hrow hcol
    exact ⟨hword, rfl, rfl⟩

theorem isWordOf_of_decodeCompare {w : Word} {i : Instr} (hrow : rowOf w = 0xB#4) (h : decodeCompare w = .ok i) :
    IsWordOf w i := by
  unfold decodeCompare at h
  split at h
  · next hbit =>
    have hnum := rowOf_toNat w
    have hport := portOf_toNat w
    have hreg := regA_toNat w
    rw [hrow] at hnum
    simp only [getLsbD_eq_decide, decide_eq_true_eq, BitVec.reduceToNat] at hbit hnum
    cases h
    exact ⟨wordOf_eq (by omega), rfl, rfl⟩
  · split at h <;> cases h <;> rename_i hcol
    all_goals
      have hword := aluWord_of_fields hrow hcol
      exact ⟨hword, rfl, rfl⟩

theorem isWordOf_of_decodeAccess {w : Word} {i : Instr} (hrow : rowOf w = 0xC#4) (h : decodeAccess w = .ok i) :
    IsWordOf w i := by
  unfold decodeAccess at h
  split at h
  · split at h
    case h_1 hcol =>
      split at h
      · next hzero =>
        have hword := wordOf_of_bytes hrow hcol hzero
        cases h
        exact ⟨hword, rfl, rfl⟩
      · cases h
    case h_5 => cases h
    all_goals
      rename_i hcol
      cases h
      have hword := aluWord_of_fields hrow hcol
      exact ⟨hword, rfl, rfl⟩
  · next hbit =>
    have hnum := rowOf_toNat w
    have hport := portOf_toNat w
    have hreg := regA_toNat w
    rw [hrow] at hnum
    simp only [getLsbD_eq_decide, decide_eq_true_eq, BitVec.reduceToNat] at hbit hnum
    cases h
    exact ⟨wordOf_eq (by omega), rfl, rfl⟩

theorem isWordOf_of_decodeArith {w : Word} {i : Instr} (hrow : rowOf w = 0xD#4) (h : decodeArith w = .ok i) :
    IsWordOf w i := by
  unfold decodeArith at h
  split at h <;> cases h <;> rename_i hcol
  case h_16 =>
    have hlast : colOf w = 0xF#4 := by simp only [imp_false] at *; bv_omega
    have hword := aluWord_of_fields hrow hlast
    exact ⟨hword, rfl, rfl⟩
  all_goals
    have hword := aluWord_of_fields hrow hcol
    exact ⟨hword, rfl, rfl⟩

theorem isWordOf_of_decodeLogic {w : Word} {i : Instr} (hrow : rowOf w = 0xE#4) (h : decodeLogic w = .ok i) :
    IsWordOf w i := by
  unfold decodeLogic at h
  split at h <;> cases h <;> rename_i hcol
  case h_16 =>
    have hlast : colOf w = 0xF#4 := by simp only [imp_false] at *; bv_omega
    have hword := aluWord_of_fields hrow hlast
    exact ⟨hword, rfl, rfl⟩
  all_goals
    have hword := aluWord_of_fields hrow hcol
    exact ⟨hword, rfl, rfl⟩

theorem isWordOf_of_decodeUnitRead {w : Word} {i : Instr} (hrow : rowOf w = 0xF#4) (h : decodeUnitRead w = .ok i) :
    IsWordOf w i := by
  simp only [decodeUnitRead, ite_not] at h
  split at h
  · next hzero =>
    have hb : regB w = 0#4 := hzero
    split at h <;> cases h <;> rename_i hcol
    all_goals
      have hword := aluWord_of_fields hrow hcol
      rw [hb] at hword
      exact ⟨hword, rfl, rfl⟩
  · cases h

theorem isWordOf_call {w : Word} (h : rowOf w < 4#4) : IsWordOf w (.call (absOf w)) := by
  have habs := absOf_toNat w
  rw [BitVec.lt_def, rowOf_toNat] at h
  simp only [BitVec.reduceToNat] at h
  exact ⟨wordOf_eq (by omega), rfl, rfl⟩

theorem isWordOf_jmp {w : Word} (hrow : rowOf w = 4#4) : IsWordOf w (.jmp (condOf w) (relOf w)) := by
  have hnum := rowOf_toNat w
  have hcode := condOf_code w
  have hrel := relOf_toNat w
  rw [hrow] at hnum
  simp only [BitVec.reduceToNat] at hnum
  exact ⟨wordOf_eq (by omega), rfl, rfl⟩

theorem isWordOf_of_decode {w : Word} {i : Instr} (h : decode w = .ok i) : IsWordOf w i := by
  unfold decode at h
  split at h
  case h_1 hrow | h_2 hrow | h_3 hrow | h_4 hrow =>
    cases h
    exact isWordOf_call (by rw [hrow]; decide)
  case h_5 hrow =>
    cases h
    exact isWordOf_jmp hrow
  case h_6 hrow => exact isWordOf_of_decodeReturn hrow h
  case h_7 hrow => exact isWordOf_of_decodeMark hrow h
  case h_8 hrow | h_9 hrow | h_10 hrow =>
    have hword := immWord_of_fields hrow
    cases h
    exact ⟨hword, rfl, rfl⟩
  case h_11 hrow => exact isWordOf_of_decodeMultiply hrow h
  case h_12 hrow => exact isWordOf_of_decodeCompare hrow h
  case h_13 hrow => exact isWordOf_of_decodeAccess hrow h
  case h_14 hrow => exact isWordOf_of_decodeArith hrow h
  case h_15 hrow => exact isWordOf_of_decodeLogic hrow h
  case h_16 =>
    have hrow : rowOf w = 0xF#4 := by simp only [imp_false] at *; bv_omega
    exact isWordOf_of_decodeUnitRead hrow h

end Sys2Proof
end

section
/-! Decode, then encode (30_encoding.md): the statement O4. -/

namespace Sys2Proof.Claims

/-- Settles O4: row by row of the opcode matrix, the fields read from the word make up the word again. -/
theorem encodeOfDecodeIsTheWord : Obligations.EncodeOfDecodeIsTheWord :=
  fun _ _ h => isWordOf_of_decode h

end Sys2Proof.Claims
end

section
/-! SUPPORT. What the decoder refuses, row by row (R81, R82), in the fields of the word. -/

namespace Sys2Proof

theorem decodeReturn_eq_error {w : Word} {e : DecodeError} :
    decodeReturn w = .error e ↔ .blankBitsSet = e ∧ lowByteOf w ≠ 0#8 := by
  unfold decodeReturn
  split
  · next hblank => simp [hblank]
  · next hblank => split <;> simp [not_not.mp hblank]

theorem decodeMark_eq_error {w : Word} {e : DecodeError} :
    decodeMark w = .error e ↔
      (.unusedEncoding = e ∧ w[11] = true ∧ colOf w ≠ 8#4) ∨
        (.blankBitsSet = e ∧ w[11] = false ∧
          ((w[10] = true ∧ w.extractLsb' 4 6 ≠ 0#6) ∨ (w[10] = false ∧ w.extractLsb' 0 10 ≠ 0#10))) := by
  unfold decodeMark
  by_cases h11 : w[11] = true
  · by_cases hcol : colOf w = 8#4 <;> simp [h11, hcol]
  · by_cases h10 : w[10] = true
    · by_cases hblank : w.extractLsb' 4 6 = 0#6 <;> simp [h11, h10, hblank]
    · by_cases hblank : w.extractLsb' 0 10 = 0#10 <;> simp [h11, h10, hblank]

theorem decodeMultiply_eq_error {w : Word} {e : DecodeError} :
    decodeMultiply w = .error e ↔
      .unusedEncoding = e ∧
        (colOf w ∈ [0xA#4, 0xB#4, 0xD#4, 0xF#4] ∨ (colOf w = 8#4 ∧ lowByteOf w ≠ 0#8) ∨
          (colOf w = 0xE#4 ∧ lowByteOf w ≠ 0#8 ∧ lowByteOf w ≠ 0x10#8)) := by
  unfold decodeMultiply
  split
  case h_9 hcol => by_cases hlow : lowByteOf w = 0#8 <;> simp [hcol, hlow]
  case h_12 hcol =>
    by_cases hclc : lowByteOf w = 0#8
    · simp [hcol, hclc]
    · by_cases hstc : lowByteOf w = 0x10#8 <;> simp [hcol, hclc, hstc]
  case h_13 =>
    have hcol : colOf w ∈ [0xA#4, 0xB#4, 0xD#4, 0xF#4] := by
      simp only [imp_false, List.mem_cons, List.not_mem_nil] at *
      bv_omega
    simp [hcol]
  all_goals
    rename_i hcol
    simp [hcol]

theorem decodeCompare_eq_error {w : Word} {e : DecodeError} :
    decodeCompare w = .error e ↔
      .unusedEncoding = e ∧ w[11] = false ∧ colOf w ≠ 3#4 ∧ colOf w ≠ 7#4 := by
  unfold decodeCompare
  by_cases h11 : w[11] = true
  · simp [h11]
  · rw [BitVec.getLsbD_eq_getElem (by decide), if_neg h11]
    rw [Bool.not_eq_true] at h11
    split
    case h_1 hcol | h_2 hcol => simp [hcol]
    case h_3 h3 h7 => simpa [h11] using fun _ => ⟨h3, h7⟩

theorem decodeAccess_eq_error {w : Word} {e : DecodeError} :
    decodeAccess w = .error e ↔
      (.unusedEncoding = e ∧ w[11] = true ∧ colOf w ∉ [8#4, 9#4, 0xA#4, 0xB#4]) ∨
        (.blankBitsSet = e ∧ w[11] = true ∧ colOf w = 8#4 ∧ lowByteOf w ≠ 0#8) := by
  unfold decodeAccess
  by_cases h11 : w[11] = true
  · rw [BitVec.getLsbD_eq_getElem (by decide), if_pos h11]
    split
    case h_1 hcol => by_cases hlow : lowByteOf w = 0#8 <;> simp [h11, hcol, hlow]
    case h_2 hcol | h_3 hcol | h_4 hcol => simp [hcol]
    case h_5 h8 h9 hA hB =>
      have hcol : colOf w ∉ [8#4, 9#4, 0xA#4, 0xB#4] := by simpa using ⟨h8, h9, hA, hB⟩
      simp [h11, hcol, show colOf w ≠ 8#4 from h8]
  · simp [h11]

theorem decodeUnitRead_eq_error {w : Word} {e : DecodeError} :
    decodeUnitRead w = .error e ↔
      .unusedEncoding = e ∧ (constK w ≠ 0#4 ∨ colOf w ∉ [0#4, 1#4, 2#4, 3#4]) := by
  unfold decodeUnitRead
  by_cases hk : constK w = 0#4
  · rw [if_neg (not_not.mpr hk)]
    split
    case h_1 hcol | h_2 hcol | h_3 hcol | h_4 hcol => simp [hk, hcol]
    case h_5 h0 h1 h2 h3 =>
      have hcol : colOf w ∉ [0#4, 1#4, 2#4, 3#4] := by simpa using ⟨h0, h1, h2, h3⟩
      simp [hcol]
  · simp [hk]

theorem decodeArith_ne_error (w : Word) (e : DecodeError) : decodeArith w ≠ .error e := by
  unfold decodeArith
  split <;> simp

theorem decodeLogic_ne_error (w : Word) (e : DecodeError) : decodeLogic w ≠ .error e := by
  unfold decodeLogic
  split <;> simp

end Sys2Proof
end

section
/-! What the decoder refuses (30_encoding.md section 4): the statement O5. -/

namespace Sys2Proof.Claims

/-- Settles O5: the row is known in each branch of the decoder; what the row refuses is its lemma, and with the row put
for bits 15:12 the two lists say the same of the column and the low byte. -/
theorem decoderRefusesExactlyTheUnusedWords : Obligations.DecoderRefusesExactlyTheUnusedWords := by
  intro w
  have hnum := rowOf_toNat w
  have htop := (Nat.add_comm _ _).trans (row_add_col w)
  have hcol := (colOf w).isLt
  have h10 : w[10] = decide (w.toNat / 2 ^ 10 % 2 = 1) := getLsbD_eq_decide w 10
  have h11 : w[11] = decide (w.toNat / 2 ^ 11 % 2 = 1) := getLsbD_eq_decide w 11
  unfold decode
  split
  case h_16 =>
    have hrow : rowOf w = 0xF#4 := by simp only [imp_false] at *; bv_omega
    rw [hrow] at hnum htop
    simp only [BitVec.reduceToNat, Nat.reduceMul] at hnum htop
    simp only [decodeUnitRead_eq_error, ← BitVec.toNat_inj, constK_toNat, BitVec.reduceToNat, List.mem_cons,
      List.not_mem_nil, ne_eq, reduceCtorEq, true_and, and_true, false_and, false_or, or_false, ← hnum, ← htop,
      Nat.reduceLeDiff, Nat.reduceEqDiff]
    omega
  all_goals
    rename_i hrow
    rw [hrow] at hnum htop
    simp only [BitVec.reduceToNat, Nat.reduceMul] at hnum htop
    simp only [decodeReturn_eq_error, decodeMark_eq_error, decodeMultiply_eq_error, decodeCompare_eq_error,
      decodeAccess_eq_error, decodeArith_ne_error, decodeLogic_ne_error, h10, h11, ← BitVec.toNat_inj,
      lowByteOf_toNat, Machine.extractLsb'_toNat, BitVec.reduceToNat, List.mem_cons, List.not_mem_nil,
      decide_eq_true_eq, decide_eq_false_iff_not, ne_eq, reduceCtorEq, true_and, and_true, false_and, and_false,
      false_or, or_false, false_iff, ← hnum, ← htop, Nat.reduceLeDiff, Nat.reduceEqDiff]
    omega

end Sys2Proof.Claims
end

section
/-! A named form runs as the machine instruction it stands for (47_stack_and_pseudo.md): the statement O6. -/

namespace Sys2Proof.Machine

/-- R152. SBI with a constant in range is ADI of the negated constant. -/
theorem exec_sbi_of_range {a : Reg} {c : Int} (s : State) (h : -127 ≤ c ∧ c ≤ 128) :
    exec (.sbi a c) s = addImmediate a (BitVec.ofInt 8 (-c)) s :=
  if_pos h

theorem exec_sbi_of_not_range {a : Reg} {c : Int} (s : State) (h : ¬(-127 ≤ c ∧ c ≤ 128)) :
    exec (.sbi a c) s = .refused .operandOutOfRange :=
  if_neg h

end Sys2Proof.Machine

namespace Sys2Proof.Claims

open Sys2Proof.Machine

/-- Settles O6: a named form calls the operation its machine instruction calls; only SBI first looks at its operand,
which a well-formed one has in range. -/
theorem namedFormsRunAsTheirInstruction : Obligations.NamedFormsRunAsTheirInstruction := by
  intro i s hwf
  cases i with
  | sbi a c =>
    simp only [Instr.wf, Bool.and_eq_true, decide_eq_true_eq] at hwf
    exact exec_sbi_of_range s hwf
  | _ => rfl

end Sys2Proof.Claims

namespace Sys2Proof.Machine

/-- An instruction that answers a next state is well formed: SBI out of range is refused. -/
theorem wf_of_exec_eq_next {i : Instr} {s t : State} (h : exec i s = .next t) : i.wf = true := by
  cases i with
  | sbi a c =>
    by_cases hrange : -127 ≤ c ∧ c ≤ 128
    · simpa [Instr.wf] using hrange
    · rw [exec_sbi_of_not_range s hrange] at h
      cases h
  | _ => rfl

/-- What holds of every machine instruction that answers holds of the machine instruction of any that answers. -/
theorem exec_canon_eq_next {i : Instr} {s t : State} (h : exec i s = .next t) : exec i.canon s = .next t := by
  rw [← Claims.namedFormsRunAsTheirInstruction i s (wf_of_exec_eq_next h)]
  exact h

theorem canon_canon_of_exec_eq_next {i : Instr} {s t : State} (h : exec i s = .next t) : i.canon.canon = i.canon := by
  obtain ⟨-, hcanon, -⟩ := Laws.WordIsCanonical.all i (wf_of_exec_eq_next h)
  exact hcanon

end Sys2Proof.Machine
end

section
/-! SUPPORT. What one instruction may change, in one record over all machine instructions (10_state.md R20 to R28): each
shared operation keeps to it, so each instruction does. -/

namespace Sys2Proof.Claims

open Sys2Proof.Machine

/-- What the instruction `i` may change between `s` and `t`, by the lists of R20, R22, R25 to R28 and R56, and the
common updates of R10 with their exceptions; under a repetition there is no other control transfer than `seq` (R110). -/
structure ChangesOnly (i : Instr) (s t : State) : Prop where
  regs : ∀ r : Reg, destination i ≠ some r → t.getReg r = s.getReg r
  vz : writesAllFlags i = false → t.flags.v = s.flags.v ∧ t.flags.z = s.flags.z
  carry : writesAllFlags i = false → writesCOnly i = false → t.flags.c = s.flags.c
  memory : writesMemory i = false → t.mem = s.mem ∧ t.stored = s.stored
  ports : accessesPort i = false → KeepsPorts s t
  ras : writesRas i = false → KeepsRas s t
  acc : writesAcc i = false → t.acc = s.acc
  divider : writesDivider i = false → KeepsDivider s t
  config : t.cfg = s.cfg
  pc : s.rep ≠ 0 → t.pc = seqPc s
  latch : t.mviLat = none ∨ (∃ a imm, i = .mvi a imm ∧ s.mviLat = none ∧ t.mviLat = some a) ∧ s.rep = 0
  rep : t.rep = s.rep - 1 ∨ ∃ n, i = .rep n ∧ t.rep = n.toNat + 2
  wait : t.divWait = s.divWait - 1 ∨
    s.cfg.hasDiv = true ∧ (((∃ a b, i = .idiv a b) ∧ t.divWait = 18) ∨ (i = .fdiv ∧ t.divWait = 17))

/-! The shared operations. -/

/-- The common updates alone are within what any instruction may change. -/
theorem changesOnly_retire (i : Instr) {target : ProgAddr} (s : State) (hpc : s.rep ≠ 0 → target = seqPc s) :
    ChangesOnly i s (retire target s) where
  regs _ _ := rfl
  vz _ := ⟨rfl, rfl⟩
  carry _ _ := rfl
  memory _ := ⟨rfl, rfl⟩
  ports _ := ⟨rfl, rfl⟩
  ras _ := ⟨rfl, rfl⟩
  acc _ := rfl
  divider _ := ⟨rfl, rfl, rfl⟩
  config := rfl
  pc := hpc
  latch := .inl rfl
  rep := .inl rfl
  wait := .inl rfl

/-- `finish` does them. -/
theorem changesOnly_finish (i : Instr) (s : State) : ChangesOnly i s (retire (seqPc s) s) :=
  changesOnly_retire i s fun _ => rfl

/-- Writing the destination register first, too. -/
theorem changesOnly_finish_setReg {i : Instr} {a : Reg} (v : Word) (s : State) (hdest : destination i = some a) :
    ChangesOnly i s (retire (seqPc s) (s.setReg a v)) where
  __ := changesOnly_finish i s
  regs _ hr := getReg_setReg_ne s v fun e => hr (e ▸ hdest)

theorem changesOnly_writeReg {i : Instr} {a : Reg} {v : Word} {s t : State} (h : writeReg a v s = .next t)
    (hdest : destination i = some a) : ChangesOnly i s t := by
  cases h
  exact changesOnly_finish_setReg v s hdest

theorem changesOnly_writeSum {i : Instr} {a : Reg} {u : Sum} {s t : State} (h : writeSum a u s = .next t)
    (hdest : destination i = some a) (hflags : writesAllFlags i = true) : ChangesOnly i s t := by
  cases h
  exact { changesOnly_finish_setReg u.r s hdest with
    vz := by simp [hflags]
    carry := by simp [hflags] }

theorem changesOnly_writeSumFlags {i : Instr} {u : Sum} {s t : State} (h : writeSumFlags u s = .next t)
    (hflags : writesAllFlags i = true) : ChangesOnly i s t := by
  cases h
  exact { changesOnly_finish i s with
    vz := by simp [hflags]
    carry := by simp [hflags] }

theorem changesOnly_writeC {i : Instr} {c : Bool} {s t : State} (h : writeC c s = .next t)
    (hcarry : writesCOnly i = true) : ChangesOnly i s t := by
  cases h
  exact { changesOnly_finish i s with carry := by simp [hcarry] }

theorem changesOnly_shiftRight {i : Instr} {a : Reg} {k : BitVec 4} {s t : State} (h : shiftRight a k s = .next t)
    (hdest : destination i = some a) (hcarry : writesCOnly i = true) : ChangesOnly i s t := by
  rw [shiftRight_eq] at h
  cases h
  exact { changesOnly_finish_setReg _ s hdest with carry := by simp [hcarry] }

theorem changesOnly_shiftLeft {i : Instr} {a : Reg} {k : BitVec 4} {s t : State} (h : shiftLeft a k s = .next t)
    (hdest : destination i = some a) (hcarry : writesCOnly i = true) : ChangesOnly i s t := by
  rw [shiftLeft_eq] at h
  cases h
  exact { changesOnly_finish_setReg _ s hdest with carry := by simp [hcarry] }

theorem changesOnly_jumpOn {i : Instr} {cc : Cond} {rel : BitVec 9} {s t : State} (h : jumpOn cc rel s = .next t) :
    ChangesOnly i s t := by
  obtain ⟨-, hrep, rfl⟩ | ⟨-, rfl⟩ := jumpOn_eq_next h
  · exact changesOnly_retire i s (absurd hrep)
  · exact changesOnly_finish i s

theorem changesOnly_rasDrop {i : Instr} {target : ProgAddr} {s : State} (hrep : s.rep = 0)
    (hras : writesRas i = true) : ChangesOnly i s (retire target s.rasDrop) where
  __ := changesOnly_retire i s (absurd hrep)
  ras := by simp [hras]

theorem changesOnly_rasPush {i : Instr} {target v : ProgAddr} {s : State} (hrep : s.rep = 0)
    (hras : writesRas i = true) : ChangesOnly i s (retire target (s.rasPush v)) where
  __ := changesOnly_retire i s (absurd hrep)
  ras := by simp [hras]

theorem changesOnly_returnOn {i : Instr} {cc : Cond} {s t : State} (h : returnOn cc s = .next t)
    (hras : writesRas i = true) : ChangesOnly i s t := by
  obtain ⟨-, hrep, rfl⟩ | ⟨-, rfl⟩ := returnOn_eq_next h
  · exact changesOnly_rasDrop hrep hras
  · exact changesOnly_finish i s

theorem changesOnly_loopOn {i : Instr} {cc : Cond} {s t : State} (h : loopOn cc s = .next t)
    (hras : writesRas i = true) : ChangesOnly i s t := by
  obtain ⟨hrep, ⟨-, rfl⟩ | ⟨-, rfl⟩⟩ := loopOn_eq_next h
  · exact changesOnly_retire i s (absurd hrep)
  · exact changesOnly_rasDrop hrep hras

theorem changesOnly_writeAcc {i : Instr} {v : Int} {s t : State} (h : writeAcc v s = .next t)
    (hacc : writesAcc i = true) : ChangesOnly i s t := by
  obtain ⟨-, rfl⟩ := writeAcc_eq_next h
  exact { changesOnly_finish i s with acc := by simp [hacc] }

theorem changesOnly_readDivider {i : Instr} {a : Reg} {done busy : Word} {s t : State}
    (h : readDivider a done busy s = .next t) (hdest : destination i = some a) : ChangesOnly i s t := by
  obtain ⟨-, ⟨-, rfl⟩ | ⟨-, rfl⟩⟩ := readDivider_eq_next h
  · exact changesOnly_finish_setReg done s hdest
  · exact { changesOnly_finish_setReg busy s hdest with }

theorem changesOnly_exchange {i : Instr} {a : Reg} {addr : Word} {s t : State} (h : exchange a addr s = .next t)
    (hdest : destination i = some a) (hmem : writesMemory i = true) : ChangesOnly i s t := by
  obtain ⟨old, -, -, rfl⟩ := exchange_eq_next h
  exact { changesOnly_finish_setReg old s hdest with memory := by simp [hmem] }

/-! The instructions that are not one shared operation. -/

/-- R109. -/
theorem changesOnly_rep {n : BitVec 8} {s t : State} (h : exec (.rep n) s = .next t) : ChangesOnly (.rep n) s t := by
  obtain ⟨hrep, rfl⟩ := repeatNext_eq_next h
  exact { changesOnly_retire (.rep n) s (absurd hrep) with rep := .inr ⟨n, rfl, rfl⟩ }

/-- R130. What an MVI that answers has done: no repetition is pending; it is a first MVI, or it closes the pair. -/
theorem exec_mvi_eq_next {a : Reg} {imm : BitVec 8} {s t : State} (h : exec (.mvi a imm) s = .next t) :
    s.rep = 0 ∧
      ((s.mviLat = none ∧ t = { retire (seqPc s) (s.setReg a (signExtend8 imm)) with mviLat := some a }) ∨
        (s.mviLat = some a ∧ t = retire (seqPc s) (s.setReg a (withHighByte (s.getReg a) imm)))) := by
  obtain ⟨hrep, h⟩ := unlessRep_eq_next h
  refine ⟨hrep, ?_⟩
  split at h
  · next hlat =>
    cases h
    exact .inl ⟨hlat, rfl⟩
  · next r hlat =>
    split at h
    · next hr =>
      subst hr
      cases h
      exact .inr ⟨hlat, rfl⟩
    · cases h

theorem changesOnly_mvi {a : Reg} {imm : BitVec 8} {s t : State} (h : exec (.mvi a imm) s = .next t) :
    ChangesOnly (.mvi a imm) s t := by
  obtain ⟨hrep, ⟨hlat, rfl⟩ | ⟨-, rfl⟩⟩ := exec_mvi_eq_next h
  · exact { changesOnly_finish_setReg (i := .mvi a imm) (signExtend8 imm) s rfl with
      latch := .inr ⟨⟨a, imm, rfl, hlat, rfl⟩, hrep⟩ }
  · exact changesOnly_finish_setReg _ s rfl

/-- R135. What a WR that answers has done. -/
theorem exec_wr_eq_next {a b : Reg} {s t : State} (h : exec (.wr a b) s = .next t) :
    (s.getReg b).toNat < s.cfg.memWords ∧
      t = retire (seqPc s)
        { s with
          mem := Memory.writeWord s.mem (s.getReg b) (s.getReg a)
          stored := addAddr s.stored (s.getReg b).toNat } := by
  obtain ⟨u, hu, h⟩ := andThen_eq_next h
  obtain ⟨ha, rfl⟩ := storeWord_next hu
  cases h
  exact ⟨ha, rfl⟩

theorem changesOnly_wr {a b : Reg} {s t : State} (h : exec (.wr a b) s = .next t) : ChangesOnly (.wr a b) s t := by
  obtain ⟨-, rfl⟩ := exec_wr_eq_next h
  exact { changesOnly_finish (.wr a b) s with memory := by simp [writesMemory] }

theorem changesOnly_rd {a b : Reg} {s t : State} (h : exec (.rd a b) s = .next t) : ChangesOnly (.rd a b) s t := by
  obtain ⟨v, -, h⟩ := andThen_eq_next h
  exact changesOnly_writeReg h rfl

theorem changesOnly_out {a : Reg} {p : Port} {s t : State} (h : exec (.out a p) s = .next t) :
    ChangesOnly (.out a p) s t := by
  cases h
  exact { changesOnly_finish (.out a p) s with ports := by simp [accessesPort] }

theorem changesOnly_inp {a : Reg} {p : Port} {s t : State} (h : exec (.inp a p) s = .next t) :
    ChangesOnly (.inp a p) s t := by
  cases h
  exact { changesOnly_finish_setReg (i := .inp a p) (s.portInput p) s rfl with
    ports := by simp [accessesPort] }

theorem changesOnly_call {target : ProgAddr} {s t : State} (h : exec (.call target) s = .next t) :
    ChangesOnly (.call target) s t := by
  obtain ⟨hrep, h⟩ := unlessRep_eq_next h
  cases h
  exact changesOnly_rasPush hrep rfl

theorem changesOnly_mark {s t : State} (h : exec .mark s = .next t) : ChangesOnly .mark s t := by
  obtain ⟨hrep, h⟩ := unlessRep_eq_next h
  cases h
  exact changesOnly_rasPush hrep rfl

theorem changesOnly_stra {a : Reg} {s t : State} (h : exec (.stra a) s = .next t) : ChangesOnly (.stra a) s t := by
  obtain ⟨hrep, h⟩ := unlessRep_eq_next h
  cases h
  exact changesOnly_rasPush hrep rfl

/-- R271. What an IDIV that answers has done: the divider is there and was idle. -/
theorem exec_idiv_eq_next {a b : Reg} {s t : State} (h : exec (.idiv a b) s = .next t) :
    s.cfg.hasDiv = true ∧ s.divWait = 0 ∧
      t = { retire (seqPc s) { s.divideBy (s.getReg a).toNat (s.getReg b) with divd := s.getReg b } with
            divWait := 18 } :=
  startDivision_eq_next h

/-- R272. What an FDIV that answers has done. -/
theorem exec_fdiv_eq_next {s t : State} (h : exec .fdiv s = .next t) :
    s.cfg.hasDiv = true ∧ s.divWait = 0 ∧
      t = { retire (seqPc s) (s.divideBy (s.divr.toNat * 2 ^ 16) s.divd) with divWait := 17 } :=
  startDivision_eq_next h

/-- A division changes nothing but its registers, the draw counter and the wait. -/
theorem changesOnly_idiv {a b : Reg} {s t : State} (h : exec (.idiv a b) s = .next t) :
    ChangesOnly (.idiv a b) s t := by
  obtain ⟨hdiv, -, rfl⟩ := exec_idiv_eq_next h
  constructor
  case regs => exact fun r _ => getReg_of_x_eq (divideBy_x s _ _) r
  case divider => simp [writesDivider]
  case wait => exact .inr ⟨hdiv, .inl ⟨⟨a, b, rfl⟩, rfl⟩⟩
  case pc => exact fun _ => rfl
  all_goals simp [KeepsPorts, KeepsRas]

theorem changesOnly_fdiv {s t : State} (h : exec .fdiv s = .next t) : ChangesOnly .fdiv s t := by
  obtain ⟨hdiv, -, rfl⟩ := exec_fdiv_eq_next h
  constructor
  case regs => exact fun r _ => getReg_of_x_eq (divideBy_x s _ _) r
  case divider => simp [writesDivider]
  case wait => exact .inr ⟨hdiv, .inr ⟨rfl, rfl⟩⟩
  case pc => exact fun _ => rfl
  all_goals simp [KeepsPorts, KeepsRas]

/-- Each machine instruction that answers keeps to its lists, by the shared operation it calls. -/
theorem changesOnly_of_machine {i : Instr} {s t : State} (hmachine : i.canon = i) (h : exec i s = .next t) :
    ChangesOnly i s t := by
  cases i with
  | call target => exact changesOnly_call h
  | jmp cc rel => exact changesOnly_jumpOn h
  | ret cc => exact changesOnly_returnOn h rfl
  | loop cc => exact changesOnly_loopOn h rfl
  | mark => exact changesOnly_mark h
  | stra a => exact changesOnly_stra h
  | rep n => exact changesOnly_rep h
  | mvi a imm => exact changesOnly_mvi h
  | out a p => exact changesOnly_out h
  | inp a p => exact changesOnly_inp h
  | wr a b => exact changesOnly_wr h
  | rd a b => exact changesOnly_rd h
  | xchg a b => exact changesOnly_exchange h rfl rfl
  | noAccess =>
    cases h
    exact changesOnly_finish .noAccess s
  | cpi a imm | cmp a b | cmpc a b => exact changesOnly_writeSumFlags h rfl
  | clc | stc | btst a k => exact changesOnly_writeC h rfl
  | adi a imm | mov a b | mvn a b | add a b | sub a b | movc a b | mvnc a b | adc a b | sbc a b =>
    exact changesOnly_writeSum h rfl rfl
  | mov8 a b | mvn8 a b | add8 a b | sub8 a b | mov4 a b | mvn4 a b | add4 a b | sub4 a b | not a b | and a b | or a b
  | xor a b | mask a k | rst a k | setb a k | inv a k | mlls a b | mhls a b | ins4 a b | ins8 a b | in12 a b
  | rev a b => exact changesOnly_writeReg h rfl
  | shr a k => exact changesOnly_shiftRight h rfl rfl
  | shl a k => exact changesOnly_shiftLeft h rfl rfl
  | umul a b | umln a b | umac a b | umsb a b | mul a b | muln a b | mac a b | msub a b =>
    exact changesOnly_writeAcc h rfl
  | lpl a | lph a =>
    obtain ⟨-, h⟩ := needMac_eq_next h
    exact changesOnly_writeReg h rfl
  | idiv a b => exact changesOnly_idiv h
  | fdiv => exact changesOnly_fdiv h
  | lq a | lr a => exact changesOnly_readDivider h rfl
  | _ => cases hmachine

/-- An instruction that answers keeps to the lists of the machine instruction it stands for. -/
theorem changesOnly_of_exec {i : Instr} {s t : State} (h : exec i s = .next t) : ChangesOnly i.canon s t :=
  changesOnly_of_machine (canon_canon_of_exec_eq_next h) (exec_canon_eq_next h)

end Sys2Proof.Claims
end

section
/-! What each instruction may change, over all instructions (10_state.md): the statements O10 to O13. -/

namespace Sys2Proof.Claims

open Sys2Proof.Machine

/-- R22. A machine instruction has a destination unless it is listed as writing no register. -/
theorem writesNoRegister_eq {i : Instr} (hmachine : i.canon = i) :
    writesNoRegister i = (destination i).isNone := by
  cases i <;> cases hmachine <;> rfl

/-- Settles O10. -/
theorem onlyRegisterAIsWritten : Obligations.OnlyRegisterAIsWritten := by
  intro i s t h
  have hregs := (changesOnly_of_exec h).regs
  have hlisted := writesNoRegister_eq (canon_canon_of_exec_eq_next h)
  cases hdest : destination i.canon with
  | none => exact .inl ⟨by rw [hlisted, hdest]; rfl, rfl, fun r => hregs r (by simp [hdest])⟩
  | some a =>
    exact .inr ⟨a, by rw [hlisted, hdest]; rfl, rfl, fun r hr => hregs r (by simpa [hdest] using Ne.symm hr)⟩

/-- Settles O11. -/
theorem flagsChangeOnlyByTheirInstructions : Obligations.FlagsChangeOnlyByTheirInstructions :=
  fun _ _ _ h => ⟨(changesOnly_of_exec h).vz, (changesOnly_of_exec h).carry⟩

/-- Settles O12. -/
theorem otherStateChangesOnlyByItsInstructions : Obligations.OtherStateChangesOnlyByItsInstructions := by
  intro i s t h
  have hchanges := changesOnly_of_exec h
  refine ⟨fun hlist => ?_, hchanges.ports, hchanges.ras, hchanges.acc, hchanges.divider, hchanges.config⟩
  obtain ⟨hmem, hstored⟩ := hchanges.memory hlist
  exact ⟨fun n => by rw [hmem], hstored⟩

/-! MVI, IDIV and FDIV stand for themselves, and no named form stands for them. -/

theorem eq_mvi_of_canon {i : Instr} {a : Reg} {imm : BitVec 8} (h : i.canon = .mvi a imm) : i = .mvi a imm := by
  cases i <;> cases h
  rfl

theorem eq_idiv_of_canon {i : Instr} {a b : Reg} (h : i.canon = .idiv a b) : i = .idiv a b := by
  cases i <;> cases h
  rfl

theorem eq_fdiv_of_canon {i : Instr} (h : i.canon = .fdiv) : i = .fdiv := by
  cases i <;> cases h
  rfl

/-- Settles O13. -/
theorem everyInstructionMakesTheCommonUpdates : Obligations.EveryInstructionMakesTheCommonUpdates := by
  intro i s t h
  have hchanges := changesOnly_of_exec h
  refine ⟨?latch, hchanges.rep, ?wait⟩
  case latch =>
    obtain hnone | ⟨⟨a, imm, hmvi, hlat⟩, -⟩ := hchanges.latch
    · exact .inl hnone
    · exact .inr ⟨a, imm, eq_mvi_of_canon hmvi, hlat⟩
  case wait =>
    obtain hless | ⟨-, ⟨⟨a, b, hidiv⟩, hwait⟩ | ⟨hfdiv, hwait⟩⟩ := hchanges.wait
    · exact .inl hless
    · exact .inr (.inl ⟨⟨a, b, eq_idiv_of_canon hidiv⟩, hwait⟩)
    · exact .inr (.inr ⟨eq_fdiv_of_canon hfdiv, hwait⟩)

end Sys2Proof.Claims
end

section
/-! SUPPORT. The invariant through one instruction: its part about memory through a stored word, its part about the
divider through a division, the rest through the common updates. -/

namespace Sys2Proof.Machine

/-- The invariant's part about memory, with `n` memory words: R51, R52 and the canonical forms (log entries 4, 5). -/
structure MemoryInv (n : Nat) (m : Memory) (stored : List Nat) : Prop where
  canonical : Memory.wf m = true
  inside : Memory.below (2 * n) m = true
  rising : risingFrom 0 stored = true
  storedInside : ∀ a ∈ stored, a < n
  written : ∀ a ∈ stored, (Memory.readWord m (BitVec.ofNat 16 a)).isSome = true

theorem Inv.memoryInv {s : State} (h : Inv s) : MemoryInv s.cfg.memWords s.mem s.stored :=
  ⟨h.memory, h.memoryInside, h.storedRising, h.storedInside, h.storedWritten⟩

/-- R52. A word stored inside memory keeps it. -/
theorem memoryInv_writeWord {n : Nat} {m : Memory} {stored : List Nat} {a : Word} (v : Word) (ha : a.toNat < n)
    (h : MemoryInv n m stored) : MemoryInv n (Memory.writeWord m a v) (addAddr stored a.toNat) where
  canonical := wf_writeWord a v h.canonical
  inside := below_writeWord v ha h.inside
  rising := risingFrom_addAddr (Nat.zero_le _) h.rising
  storedInside b hb := by
    obtain rfl | hb := mem_addAddr.mp hb
    · exact ha
    · exact h.storedInside b hb
  written b hb := by
    by_cases hba : BitVec.ofNat 16 b = a
    · simp [hba]
    · obtain rfl | hb := mem_addAddr.mp hb
      · simp at hba
      · rw [readWord_writeWord_ne m v hba]
        exact h.written b hb

/-- R271, R272. By a divisor that is not zero, the remainder is below it. -/
theorem divr_divideBy_lt (s : State) (n : Nat) {d : Word} (h : d ≠ 0#16) : (s.divideBy n d).divr.toNat < d.toNat := by
  obtain ⟨-, hdivr, -⟩ := divideBy_of_ne s n h
  have hpos : 0 < d.toNat := Nat.pos_of_ne_zero fun e => h (BitVec.eq_of_toNat_eq e)
  have hlt := Nat.mod_lt n hpos
  rw [hdivr, BitVec.toNat_ofNat, Nat.mod_eq_of_lt (by omega)]
  exact hlt

end Sys2Proof.Machine

namespace Sys2Proof.Claims

open Sys2Proof.Machine

/-- R135, R137. WR and XCHG store one word inside memory. -/
theorem storesWord_of_writesMemory {i : Instr} {s t : State} (hlist : writesMemory i = true)
    (h : exec i s = .next t) :
    ∃ a v : Word, a.toNat < s.cfg.memWords ∧ t.mem = Memory.writeWord s.mem a v ∧
      t.stored = addAddr s.stored a.toNat := by
  cases i with
  | wr a b =>
    obtain ⟨hin, rfl⟩ := exec_wr_eq_next h
    exact ⟨s.getReg b, s.getReg a, hin, rfl, rfl⟩
  | xchg a b =>
    obtain ⟨old, hin, -, rfl⟩ := exchange_eq_next h
    exact ⟨s.getReg b, s.getReg a, hin, rfl, rfl⟩
  | _ => cases hlist

/-- R271, R272. IDIV and FDIV leave a remainder below the divisor they leave, unless that is 0. -/
theorem remainder_of_writesDivider {i : Instr} {s t : State} (hlist : writesDivider i = true)
    (h : exec i s = .next t) (hd : t.divd ≠ 0#16) : t.divr.toNat < t.divd.toNat := by
  cases i with
  | idiv a b =>
    obtain ⟨-, -, rfl⟩ := exec_idiv_eq_next h
    exact divr_divideBy_lt s _ hd
  | fdiv =>
    obtain ⟨-, -, rfl⟩ := exec_fdiv_eq_next h
    rw [retire_divd, divideBy_divd] at hd ⊢
    exact divr_divideBy_lt s _ hd
  | _ => cases hlist

theorem memoryInv_exec {i : Instr} {s t : State} (hinv : MemoryInv s.cfg.memWords s.mem s.stored)
    (h : exec i s = .next t) : MemoryInv t.cfg.memWords t.mem t.stored := by
  have hchanges := changesOnly_of_exec h
  rw [hchanges.config]
  cases hlist : writesMemory i.canon with
  | false =>
    obtain ⟨hmem, hstored⟩ := hchanges.memory hlist
    rw [hmem, hstored]
    exact hinv
  | true =>
    obtain ⟨a, v, hin, hmem, hstored⟩ := storesWord_of_writesMemory hlist (exec_canon_eq_next h)
    rw [hmem, hstored]
    exact memoryInv_writeWord v hin hinv

theorem remainder_exec {i : Instr} {s t : State} (hinv : s.divd ≠ 0#16 → s.divr.toNat < s.divd.toNat)
    (h : exec i s = .next t) : t.divd ≠ 0#16 → t.divr.toNat < t.divd.toNat := by
  cases hlist : writesDivider i.canon with
  | false =>
    obtain ⟨-, hdivr, hdivd⟩ := (changesOnly_of_exec h).divider hlist
    rw [hdivr, hdivd]
    exact hinv
  | true => exact remainder_of_writesDivider hlist (exec_canon_eq_next h)

theorem inv_exec {i : Instr} {s t : State} (hinv : Inv s) (h : exec i s = .next t) : Inv t := by
  have hchanges := changesOnly_of_exec h
  have hmem := memoryInv_exec hinv.memoryInv h
  refine ⟨?config, hmem.canonical, hmem.inside, hmem.rising, hmem.storedInside, hmem.written, ?repeats, ?latch, ?wait,
    remainder_exec hinv.remainder h, ?noDivider⟩
  case config =>
    rw [hchanges.config]
    exact hinv.config
  case repeats =>
    have hbefore := hinv.repeats
    obtain hrep | ⟨n, -, hrep⟩ := hchanges.rep
    · omega
    · omega
  case latch =>
    intro hrepeating
    obtain hnone | ⟨⟨a, imm, hmvi, -⟩, hidle⟩ := hchanges.latch
    · exact hnone
    · obtain hrep | ⟨n, hn, -⟩ := hchanges.rep
      · omega
      · rw [hmvi] at hn
        cases hn
  case wait =>
    have hbefore := hinv.wait
    obtain hwait | ⟨-, ⟨-, hwait⟩ | ⟨-, hwait⟩⟩ := hchanges.wait <;> omega
  case noDivider =>
    rw [hchanges.config]
    intro habsent
    have hidle := hinv.noDivider habsent
    obtain hwait | ⟨hpresent, -⟩ := hchanges.wait
    · omega
    · rw [habsent] at hpresent
      cases hpresent

/-- R101. A step that answers has run one instruction. -/
theorem step_eq_next {s t : State} (h : step s = .next t) : ∃ i, exec i s = .next t := by
  obtain ⟨w, -, h⟩ := andThen_eq_next h
  split at h
  · next i _ => exact ⟨i, h⟩
  · cases h

end Sys2Proof.Claims
end

section
/-! The invariant (10_state.md, 20_memory.md): the statements O9 and O8. -/

namespace Sys2Proof.Claims

open Sys2Proof.Machine

/-- Settles O9: a step runs one instruction, and every instruction keeps the invariant. -/
theorem stepKeepsTheInvariant : Obligations.StepKeepsTheInvariant := by
  intro s t hinv h
  obtain ⟨i, h⟩ := step_eq_next h
  exact inv_exec hinv h

/-- Settles O8: no memory, no repetition, no pair, an idle divider with divisor 0. -/
theorem resetMeetsTheInvariant : Obligations.ResetMeetsTheInvariant where
  config := by decide
  memory := rfl
  memoryInside := rfl
  storedRising := rfl
  storedInside _ h := by cases h
  storedWritten _ h := by cases h
  repeats := by decide
  latch _ := rfl
  wait := by decide
  remainder h := absurd rfl h
  noDivider _ := rfl

/-- Settles O7: the values stand in `State.reset`; of memory, that it lists nothing. -/
theorem resetLeavesTheSpecsValues : Obligations.ResetLeavesTheSpecsValues :=
  ⟨rfl, rfl, rfl, rfl, fun _ => rfl⟩

end Sys2Proof.Claims
end

section
/-! The fetch and the decoder (20_memory.md section 7, 30_encoding.md section 3): the statements O1, O2 and O59. -/

namespace Sys2Proof.Machine

/-! R101. A step on a fetched word, by what the word decodes to. -/

theorem step_of_decode {s : State} {w : Word} {i : Instr} (h : s.fetchWord = .next w) (hi : decode w = .ok i) :
    step s = exec i s := by
  rw [step, h, andThen_next, hi]

theorem step_of_decode_error {s : State} {w : Word} {e : DecodeError} (h : s.fetchWord = .next w)
    (he : decode w = .error e) : step s = .refused (.notAnInstruction e w) := by
  rw [step, h, andThen_next, he]

/-! R64. A step whose fetch stops, stops so. -/

theorem step_of_fault {s : State} {r : Fault} (h : s.fetchWord = .fault r) : step s = .fault r := by
  rw [step, h, andThen]

theorem step_of_refused {s : State} {r : Refusal} (h : s.fetchWord = .refused r) : step s = .refused r := by
  rw [step, h, andThen]

end Sys2Proof.Machine

namespace Sys2Proof.Claims

open Sys2Proof.Machine

/-- Settles O1: the fetch answers the word, and the step is what `exec` answers. -/
theorem stepRunsTheDecodedInstruction : Obligations.StepRunsTheDecodedInstruction :=
  fun _ _ _ hin hstored hw hi => step_of_decode (fetchWord_of hin hw hstored) hi

/-- Settles O2. -/
theorem specWordsDecode : Obligations.SpecWordsDecode := by
  exact ⟨rfl, rfl, rfl, rfl, rfl, rfl, rfl, rfl, rfl, rfl, rfl, rfl, rfl, rfl, rfl, rfl, rfl⟩

/-- Settles O59: the fetch makes its checks in the order of the clauses, and the decoder refuses after it. -/
theorem fetchesStopByName : Obligations.FetchesStopByName := by
  intro s
  refine ⟨fun hout => step_of_fault (if_pos hout), fun hin => ⟨fun hnone => ?unwritten, fun w hw => ⟨?stored, ?word⟩⟩⟩
  case unwritten => exact step_of_fault (by simp [State.fetchWord, Nat.not_le.mpr hin, hnone])
  case stored => exact fun hstored => step_of_refused (by simp [State.fetchWord, Nat.not_le.mpr hin, hw, hstored])
  case word => exact fun hstored e he => step_of_decode_error (fetchWord_of hin hw hstored) he

end Sys2Proof.Claims
end

section
/-! SUPPORT. The adder of R11 and R12 against the flags the claims name, and what an instruction leaves that ends in
`writeSum` or `writeSumFlags`. -/

namespace Sys2Proof.Claims

open Sys2Proof.Machine

/-! The flags of the adder. -/

theorem bit_eq_toNat (b : Bool) : bit b = b.toNat := by
  cases b <;> rfl

theorem outsideSigned_eq (t : Int) : outsideSigned t = decide (t < -32768 ∨ 32767 < t) := by
  simp [outsideSigned]

/-- R11. -/
theorem add16_flags (a b : Word) (cin : Bool) : (add16 a b cin).flags = sumFlags a b cin := by
  simp [add16, sumFlags, bit_eq_toNat, outsideSigned_eq, ← BitVec.toNat_inj]

/-- R12. -/
theorem sub16_flags (sense : Bool) (a b : Word) (bin : Bool) :
    (sub16 sense a b bin).flags = differenceFlags sense a b bin := by
  have hborrow : decide ((a.toNat : Int) - b.toNat - bin.toNat < 0) = decide (a.toNat < b.toNat + bin.toNat) := by
    rw [decide_eq_decide]
    omega
  have hzero : BitVec.ofInt 16 ((a.toNat : Int) - b.toNat - bin.toNat) = 0#16 ↔
      ((a.toNat : Int) - b.toNat - bin.toNat) % 65536 = 0 := by
    rw [← BitVec.toNat_inj, BitVec.toNat_ofInt]
    simp
    omega
  simp only [sub16, differenceFlags, bit_eq_toNat, outsideSigned_eq, hborrow, hzero]
  cases sense <;> simp

/-- R160. Adding to zero never carries or overflows. -/
theorem sumFlags_zero_left (b : Word) : sumFlags 0#16 b false = { c := false, v := false, z := decide (b = 0#16) } := by
  have hlt := b.isLt
  have hlow := b.le_toInt
  have hhigh := b.toInt_lt
  simp [sumFlags, ← BitVec.toNat_inj]
  omega

/-- R155. Subtracting zero never borrows or overflows. -/
theorem differenceFlags_zero_right (sense : Bool) (a : Word) :
    differenceFlags sense a 0#16 false = { c := !sense, v := false, z := decide (a = 0#16) } := by
  have hlt := a.isLt
  have hlow := a.le_toInt
  have hhigh := a.toInt_lt
  simp [differenceFlags, ← BitVec.toNat_inj]
  omega

/-! The results of the adder. -/

theorem add16_r_eq (a b : Word) (cin : Bool) : (add16 a b cin).r = a + b + bitWord cin := by
  rw [add16_r, bit_eq_toNat, bitWord]

theorem sub16_r_eq (sense : Bool) (a b : Word) (bin : Bool) : (sub16 sense a b bin).r = a - b - bitWord bin := by
  rw [sub16_r, bit_eq_toNat, bitWord]

@[simp] theorem bitWord_false : bitWord false = 0#16 := rfl

theorem borrowIn_eq_borrow (s : State) : s.borrowIn = borrow s := borrowIn_eq _ _

/-! What an instruction leaves that ends in `writeSum` or `writeSumFlags`. -/

theorem completes_writeSum {i : Instr} {a : Reg} {u : Sum} {s : State} (h : exec i s = writeSum a u s) :
    Completes i s (WritesReg a u.r u.flags s) := by
  refine ⟨retire (next s) ((s.setReg a u.r).setFlags u.flags), h.trans (writeSum_eq a u s), ?_, rfl, ?_, ?_, ?_⟩
  · simp
  · intro r hr
    simp [getReg_setReg_ne s u.r hr]
  · exact advances_retire s _ rfl rfl
  · exact keepsRest_refl s

theorem completes_writeSumFlags {i : Instr} {u : Sum} {s : State} (h : exec i s = writeSumFlags u s) :
    Completes i s (WritesFlags u.flags s) :=
  ⟨retire (next s) (s.setFlags u.flags), h, rfl, fun _ => rfl, advances_retire s _ rfl rfl, keepsRest_refl s⟩

/-- R150. An instruction that adds `v`, `w` and `cin` into register A. -/
theorem completes_add16 {i : Instr} {a : Reg} {v w : Word} {cin : Bool} {s : State}
    (h : exec i s = writeSum a (add16 v w cin) s) :
    Completes i s (WritesReg a (v + w + bitWord cin) (sumFlags v w cin) s) := by
  rw [← add16_r_eq, ← add16_flags]
  exact completes_writeSum h

/-- R150. An instruction that subtracts `w` and the borrow `bin` from `v` into register A. -/
theorem completes_sub16 {i : Instr} {a : Reg} {v w : Word} {bin : Bool} {s : State}
    (h : exec i s = writeSum a (s.sub16 v w bin) s) :
    Completes i s (WritesReg a (v - w - bitWord bin) (differenceFlags s.cfg.carryIsBorrow v w bin) s) := by
  rw [← sub16_r_eq s.cfg.carryIsBorrow, ← sub16_flags]
  exact completes_writeSum h

/-- R154, R158. An instruction that compares `v` with `w` and the borrow `bin`. -/
theorem completes_compare {i : Instr} {v w : Word} {bin : Bool} {s : State}
    (h : exec i s = writeSumFlags (s.sub16 v w bin) s) :
    Completes i s (WritesFlags (differenceFlags s.cfg.carryIsBorrow v w bin) s) := by
  rw [← sub16_flags]
  exact completes_writeSumFlags h

end Sys2Proof.Claims
end

section
/-! 16-bit arithmetic (42_arithmetic.md sections 2 and 3): the statements O14 to O17. -/

namespace Sys2Proof.Claims

open Sys2Proof.Machine

/-! The additions. -/

theorem completes_mov (a b : Reg) (s : State) :
    Completes (.mov a b) s
      (WritesReg a (s.getReg b) { c := false, v := false, z := decide (s.getReg b = 0) } s) := by
  have h : Completes (.mov a b) s _ := completes_add16 (v := 0#16) (w := s.getReg b) (cin := false) rfl
  simpa [sumFlags_zero_left] using h

theorem completes_add (a b : Reg) (s : State) :
    Completes (.add a b) s
      (WritesReg a (s.getReg a + s.getReg b) (sumFlags (s.getReg a) (s.getReg b) false) s) := by
  have h : Completes (.add a b) s _ := completes_add16 (v := s.getReg a) (w := s.getReg b) (cin := false) rfl
  simpa using h

theorem completes_movc (a b : Reg) (s : State) :
    Completes (.movc a b) s
      (WritesReg a (s.getReg b + bitWord s.flags.c) (sumFlags 0 (s.getReg b) s.flags.c) s) := by
  have h : Completes (.movc a b) s _ := completes_add16 (v := 0#16) (w := s.getReg b) (cin := s.flags.c) rfl
  simpa using h

theorem completes_adc (a b : Reg) (s : State) :
    Completes (.adc a b) s
      (WritesReg a (s.getReg a + s.getReg b + bitWord s.flags.c) (sumFlags (s.getReg a) (s.getReg b) s.flags.c) s) :=
  completes_add16 rfl

/-- Settles O14: each form ends in `writeSum` of an addition (`completes_add16`). -/
theorem additionsWriteSumAndFlags : Obligations.AdditionsWriteSumAndFlags := fun s a b =>
  ⟨⟨aluWord_toNat b a (by decide), completes_mov a b s⟩, ⟨aluWord_toNat b a (by decide), completes_add a b s⟩,
    ⟨aluWord_toNat b a (by decide), completes_movc a b s⟩, ⟨aluWord_toNat b a (by decide), completes_adc a b s⟩⟩

/-! The subtractions; the negations subtract from zero. -/

theorem completes_sub (a b : Reg) (s : State) :
    Completes (.sub a b) s
      (WritesReg a (s.getReg a - s.getReg b)
        (differenceFlags s.cfg.carryIsBorrow (s.getReg a) (s.getReg b) false) s) := by
  have h : Completes (.sub a b) s _ := completes_sub16 (v := s.getReg a) (w := s.getReg b) (bin := false) rfl
  simpa using h

theorem completes_sbc (a b : Reg) (s : State) :
    Completes (.sbc a b) s
      (WritesReg a (s.getReg a - s.getReg b - bitWord (borrow s))
        (differenceFlags s.cfg.carryIsBorrow (s.getReg a) (s.getReg b) (borrow s)) s) := by
  rw [← borrowIn_eq_borrow]
  exact completes_sub16 rfl

/-- R161. An instruction that writes minus register B to register A. -/
theorem completes_negateInto {i : Instr} {a b : Reg} {s : State} (h : exec i s = negateInto a b s) :
    Completes i s (WritesReg a (0 - s.getReg b) (differenceFlags s.cfg.carryIsBorrow 0 (s.getReg b) false) s) := by
  have hsub := completes_sub16 (v := 0#16) (w := s.getReg b) (bin := false) h
  simpa using hsub

/-- R166. An instruction that writes minus register B, less the incoming borrow, to register A. -/
theorem completes_negateBorrowInto {i : Instr} {a b : Reg} {s : State} (h : exec i s = negateBorrowInto a b s) :
    Completes i s
      (WritesReg a (0 - s.getReg b - bitWord (borrow s))
        (differenceFlags s.cfg.carryIsBorrow 0 (s.getReg b) (borrow s)) s) := by
  rw [← borrowIn_eq_borrow]
  exact completes_sub16 h

/-- Settles O15: each form ends in `writeSum` of a subtraction (`completes_sub16`). -/
theorem subtractionsWriteDifferenceAndFlags : Obligations.SubtractionsWriteDifferenceAndFlags := by
  intro s a b
  refine ⟨⟨aluWord_toNat b a (by decide), ?mvn⟩, ⟨wordOf_toNat (by omega), ?neg⟩, ⟨aluWord_toNat b a (by decide), ?sub⟩,
    ⟨aluWord_toNat b a (by decide), ?mvnc⟩, ⟨wordOf_toNat (by omega), ?negc⟩, ⟨aluWord_toNat b a (by decide), ?sbc⟩⟩
  case mvn => exact completes_negateInto rfl
  case neg => exact completes_negateInto rfl
  case sub => exact completes_sub a b s
  case mvnc => exact completes_negateBorrowInto rfl
  case negc => exact completes_negateBorrowInto rfl
  case sbc => exact completes_sbc a b s

/-! The constant additions. -/

/-- R151. An instruction that adds the sign-extended constant to register A. -/
theorem completes_addImmediate {i : Instr} {a : Reg} {imm : BitVec 8} {w : Word} {s : State}
    (h : exec i s = addImmediate a imm s) (hw : signExtend8 imm = w) :
    Completes i s (WritesReg a (s.getReg a + w) (sumFlags (s.getReg a) w false) s) := by
  have hadd := completes_add16 h
  simpa [hw] using hadd

/-- R152. The negated constant of SBI survives in eight bits. -/
theorem signExtend8_ofInt {c : Int} (hlow : -127 ≤ c) (hhigh : c ≤ 128) :
    signExtend8 (BitVec.ofInt 8 (-c)) = BitVec.ofInt 16 (-c) := by
  rw [signExtend8_eq, BitVec.toInt_ofInt, Int.bmod_eq_of_le (by omega) (by omega)]

/-- Settles O16: each form adds a constant (`completes_addImmediate`). -/
theorem constantAdditionsWriteSumAndFlags : Obligations.ConstantAdditionsWriteSumAndFlags := by
  intro s a
  refine ⟨fun imm => ⟨immWord_toNat imm a (by decide), ?adi⟩, fun c hlow hhigh => ⟨?sbiWord, ?sbi⟩,
    fun c hout => ?sbiOut, ⟨wordOf_toNat (by omega), ?inc⟩, ⟨wordOf_toNat (by omega), ?dec⟩⟩
  case adi => exact completes_addImmediate rfl (signExtend8_eq imm)
  case sbiWord =>
    have hword := immWord_toNat (base := 0x8000) (BitVec.ofInt 8 (-c)) a (by decide)
    rwa [BitVec.toNat_ofInt] at hword
  case sbi =>
    rw [BitVec.sub_eq_add_neg, ← BitVec.ofInt_neg]
    exact completes_addImmediate (exec_sbi_of_range s ⟨hlow, hhigh⟩) (signExtend8_ofInt hlow hhigh)
  case sbiOut => exact exec_sbi_of_not_range s (by omega)
  case inc => exact completes_addImmediate rfl rfl
  case dec =>
    have hsum := completes_addImmediate (i := .dec a) (w := -1#16) (s := s) rfl rfl
    rwa [← BitVec.sub_eq_add_neg] at hsum

/-! The comparisons. -/

theorem completes_cmpc (a b : Reg) (s : State) :
    Completes (.cmpc a b) s
      (WritesFlags (differenceFlags s.cfg.carryIsBorrow (s.getReg a) (s.getReg b) (borrow s)) s) := by
  rw [← borrowIn_eq_borrow]
  exact completes_compare rfl

/-- Settles O17: each form ends in `writeSumFlags` of a subtraction (`completes_compare`); CPZ subtracts zero. -/
theorem comparisonsWriteFlagsOnly : Obligations.ComparisonsWriteFlagsOnly := by
  intro s a b imm
  refine ⟨⟨immWord_toNat imm a (by decide), ?cpi⟩, ⟨wordOf_toNat (by omega), ?cpz⟩,
    ⟨aluWord_toNat b a (by decide), ?cmp⟩, ⟨aluWord_toNat b a (by decide), ?cmpc⟩⟩
  case cpi => exact completes_compare rfl
  case cpz =>
    have h : Completes (.cpz a) s _ := completes_compare (v := s.getReg a) (w := 0#16) (bin := false) rfl
    rwa [differenceFlags_zero_right] at h
  case cmp => exact completes_compare rfl
  case cmpc => exact completes_cmpc a b s

end Sys2Proof.Claims
end

section
/-! SUPPORT. Two words as one 32-bit number (R181): the carry or borrow of the low half taken into the high half. -/

namespace Sys2Proof.Claims

open Sys2Proof.Machine

/-- R12. The sense of C cancels: read back as a borrow, the C of a difference is its borrow. -/
theorem beq_beq_cancel (x sense : Bool) : ((x == sense) == sense) = x := by
  cases x <;> cases sense <;> rfl

theorem bitWord_toNat (b : Bool) : (bitWord b).toNat = b.toNat := by
  cases b <;> rfl

theorem pair_add (hi lo hi' lo' : Word) :
    pair (hi + hi' + bitWord (sumFlags lo lo' false).c) (lo + lo') = (pair hi lo + pair hi' lo') % 2 ^ 32 := by
  simp only [pair, BitVec.toNat_add, bitWord_toNat, sumFlags, Bool.toNat_false, Nat.add_zero]
  by_cases hcarry : 65536 ≤ lo.toNat + lo'.toNat <;> simp [hcarry] <;> omega

theorem carry_pair_add (hi lo hi' lo' : Word) :
    (sumFlags hi hi' (sumFlags lo lo' false).c).c = decide (2 ^ 32 ≤ pair hi lo + pair hi' lo') := by
  simp only [pair, sumFlags, Bool.toNat_false, Nat.add_zero]
  refine decide_eq_decide.mpr ?_
  by_cases hcarry : 65536 ≤ lo.toNat + lo'.toNat <;> simp [hcarry] <;> omega

theorem pair_sub (hi lo hi' lo' : Word) :
    (pair (hi - hi' - bitWord (decide (lo.toNat < lo'.toNat))) (lo - lo') : Int) =
      ((pair hi lo : Int) - pair hi' lo') % 2 ^ 32 := by
  simp only [pair, BitVec.toNat_sub, bitWord_toNat]
  by_cases hborrow : lo.toNat < lo'.toNat <;> simp [hborrow] <;> omega

theorem lt_pair_iff (hi lo hi' lo' : Word) :
    hi.toNat < hi'.toNat + (decide (lo.toNat < lo'.toNat)).toNat ↔ pair hi lo < pair hi' lo' := by
  unfold pair
  by_cases hborrow : lo.toNat < lo'.toNat <;> simp [hborrow] <;> omega

/-- R12. The C of a difference with no incoming borrow. -/
theorem differenceFlags_c (sense : Bool) (a b : Word) :
    (differenceFlags sense a b false).c = (decide (a.toNat < b.toNat) == sense) := rfl

/-- R12, R181. The C that a low half leaves is, read as a borrow, the borrow of the low half. -/
theorem borrow_of_flags {s t : State} {lo lo' : Word}
    (hflags : t.flags = differenceFlags s.cfg.carryIsBorrow lo lo' false) (hcfg : t.cfg = s.cfg) :
    borrow t = decide (lo.toNat < lo'.toNat) := by
  rw [borrow, hflags, hcfg, differenceFlags_c, beq_beq_cancel]

/-- R12, R181. The C of the high half is that of the 32-bit comparison. -/
theorem carry_pair_sub (sense : Bool) (hi lo hi' lo' : Word) :
    (differenceFlags sense hi hi' (decide (lo.toNat < lo'.toNat))).c =
      (decide (pair hi lo < pair hi' lo') == sense) := by
  simp only [differenceFlags, lt_pair_iff]

end Sys2Proof.Claims
end

section
/-! 32-bit arithmetic in two instructions (42_arithmetic.md section 5): the statements O19 and O20. -/

namespace Sys2Proof.Claims

open Sys2Proof.Machine

/-- Settles O19: the low half leaves its carry or borrow and does not touch what the high half reads. -/
theorem pairsAddAndSubtract32Bits : Obligations.PairsAddAndSubtract32Bits := by
  intro s lo hi lo' hi' hlo hlo'
  constructor
  case left =>
    obtain ⟨t, ht, htlo, htflags, htregs, -, -⟩ := completes_add lo lo' s
    obtain ⟨u, hu, huhi, huflags, huregs, -, -⟩ := completes_adc hi hi' t
    have hlow : u.getReg lo = s.getReg lo + s.getReg lo' := (huregs lo hlo).trans htlo
    rw [htregs hi hlo.symm, htregs hi' hlo'.symm, htflags] at huhi huflags
    refine ⟨t, u, ht, hu, ?_, ?_⟩
    · rw [huhi, hlow, pair_add]
    · rw [huflags, carry_pair_add]
  case right =>
    obtain ⟨t, ht, htlo, htflags, htregs, -, -, -, -, -, -, -, htcfg⟩ := completes_sub lo lo' s
    obtain ⟨u, hu, huhi, huflags, huregs, -, -⟩ := completes_sbc hi hi' t
    have hlow : u.getReg lo = s.getReg lo - s.getReg lo' := (huregs lo hlo).trans htlo
    rw [htregs hi hlo.symm, htregs hi' hlo'.symm, borrow_of_flags htflags htcfg] at huhi huflags
    refine ⟨t, u, ht, hu, ?_, ?_⟩
    · rw [huhi, hlow, pair_sub]
    · rw [huflags, carry_pair_sub, htcfg]

/-- Settles O20: as O19; a negation is a subtraction from the pair of two zeros. -/
theorem pairsCompareAndNegate32Bits : Obligations.PairsCompareAndNegate32Bits := by
  intro s lo hi lo' hi'
  constructor
  case left =>
    have hcmp : Completes (.cmp lo lo') s _ :=
      completes_compare (v := s.getReg lo) (w := s.getReg lo') (bin := false) rfl
    obtain ⟨t, ht, htflags, htregs, -, -, -, -, -, -, -, htcfg⟩ := hcmp
    obtain ⟨u, hu, huflags, -⟩ := completes_cmpc hi hi' t
    refine ⟨t, u, ht, hu, ?_⟩
    rw [huflags, htregs hi, htregs hi', borrow_of_flags htflags htcfg, carry_pair_sub, htcfg]
  case right =>
    intro hlo
    obtain ⟨t, ht, htlo, htflags, htregs, -, -, -, -, -, -, -, htcfg⟩ :=
      completes_negateInto (i := .neg lo) (s := s) rfl
    obtain ⟨u, hu, huhi, -, huregs, -⟩ := completes_negateBorrowInto (i := .negc hi) (s := t) rfl
    have hlow : u.getReg lo = 0 - s.getReg lo := (huregs lo hlo).trans htlo
    rw [htregs hi hlo.symm, borrow_of_flags htflags htcfg] at huhi
    refine ⟨t, u, ht, hu, ?_⟩
    rw [huhi, hlow, pair_sub]
    simp [pair]

end Sys2Proof.Claims
end

section
/-! SUPPORT. The nibbles of R175 to R179 as numbers, and the sign extensions, inserts and rotations of R212 to R221. -/

namespace Sys2Proof.Machine

/-- A word whose number is known. -/
theorem eq_ofNat_of_toNat {v : Word} {n : Nat} (h : v.toNat = n) : v = BitVec.ofNat 16 n := by
  rw [← h, BitVec.ofNat_toNat, BitVec.setWidth_eq]

theorem withLowNibble_eq_ofNat {v : Word} {y : BitVec 4} {n : Nat} (h : y.toNat = n) :
    withLowNibble v y = BitVec.ofNat 16 (v.toNat / 16 * 16 + n) :=
  eq_ofNat_of_toNat (by rw [withLowNibble_toNat, h])

theorem neg_lowNibble_toNat (v : Word) : (-lowNibble v).toNat = (16 - v.toNat % 16) % 16 := by
  rw [BitVec.toNat_neg, lowNibble_toNat]

theorem lowNibble_add_lowNibble_toNat (v w : Word) :
    (lowNibble v + lowNibble w).toNat = (v.toNat % 16 + w.toNat % 16) % 16 := by
  rw [BitVec.toNat_add, lowNibble_toNat, lowNibble_toNat]

theorem lowNibble_sub_lowNibble_toNat (v w : Word) :
    (lowNibble v - lowNibble w).toNat = (v.toNat % 16 + 16 - w.toNat % 16) % 16 := by
  rw [BitVec.toNat_sub, lowNibble_toNat, lowNibble_toNat]
  omega

/-- The signed value of a byte. -/
theorem byte_toInt (b : BitVec 8) : b.toInt = ((b.toNat + 128) % 256 : Nat) - 128 := by
  have hlt := b.isLt
  rw [BitVec.toInt_eq_toNat_cond]
  split <;> omega

theorem signExtend8_lowByte (v : Word) :
    signExtend8 (lowByte v) = BitVec.ofInt 16 (((v.toNat % 256 + 128) % 256 : Nat) - 128) := by
  rw [signExtend8_eq, byte_toInt, lowByte_toNat]

/-- R214. The sign-extended high byte is the signed value shifted right by eight places. -/
theorem signExtend8_highByte (v : Word) : signExtend8 (highByte v) = BitVec.ofInt 16 (v.toInt / 256) := by
  have hlt := v.isLt
  have hbyte : (highByte v).toInt = v.toInt / 256 := by
    rw [byte_toInt, highByte_toNat, BitVec.toInt_eq_toNat_cond]
    split <;> omega
  rw [signExtend8_eq, hbyte]

/-! R217, R219, R221. A word inserted into itself is rotated. -/

theorem insert4_self (v : Word) : insert4 v v = v.rotateRight 4 := by
  refine BitVec.eq_of_getLsbD_eq fun n hn => ?_
  rw [insert4, BitVec.getLsbD_append, BitVec.getLsbD_rotateRight]
  by_cases h : n < 12
  · simp [h, hn]
  · simp [h, hn, show n - 12 < 4 by omega]

theorem insert8_self (v : Word) : insert8 v v = v.rotateRight 8 := by
  refine BitVec.eq_of_getLsbD_eq fun n hn => ?_
  rw [insert8, BitVec.getLsbD_append, BitVec.getLsbD_rotateRight]
  by_cases h : n < 8
  · simp [h, hn]
  · simp [h, hn, show n - 8 < 8 by omega]

theorem insert12_self (v : Word) : insert12 v v = v.rotateLeft 4 := by
  refine BitVec.eq_of_getLsbD_eq fun n hn => ?_
  rw [insert12, BitVec.getLsbD_append, BitVec.getLsbD_rotateLeft]
  by_cases h : n < 4
  · simp [h, hn]
  · simp [h, hn, show n - 4 < 12 by omega]

end Sys2Proof.Machine
end

section
/-! 4-bit arithmetic, sign extension and inserts (42_arithmetic.md section 4, 44_shift_rotate.md): the statements O22,
O25 and O26. -/

namespace Sys2Proof.Claims

open Sys2Proof.Machine

/-- An instruction that writes the word `w` to register A, where `w` is the value `v` of its rule. -/
theorem completes_writeReg_of_eq {i : Instr} {a : Reg} {v w : Word} {s : State} (hexec : exec i s = writeReg a w s)
    (hw : w = v) : Completes i s (WritesReg a v s.flags s) :=
  hw ▸ completes_writeReg hexec

/-- Settles O22: each form replaces the low nibble alone, by a nibble whose value is the lemma named beside it. -/
theorem nibbleFormsChangeTheLowNibble : Obligations.NibbleFormsChangeTheLowNibble := by
  intro s a b
  refine ⟨⟨aluWord_toNat b a (by decide), ?mov4⟩, ⟨aluWord_toNat b a (by decide), ?mvn4⟩,
    ⟨wordOf_toNat (by omega), ?neg4⟩, ⟨aluWord_toNat b a (by decide), ?add4⟩,
    ⟨aluWord_toNat b a (by decide), ?sub4⟩⟩
  case mov4 => exact completes_writeReg_of_eq rfl (withLowNibble_eq_ofNat (lowNibble_toNat _))
  case mvn4 => exact completes_writeReg_of_eq rfl (withLowNibble_eq_ofNat (neg_lowNibble_toNat _))
  case neg4 => exact completes_writeReg_of_eq rfl (withLowNibble_eq_ofNat (neg_lowNibble_toNat _))
  case add4 => exact completes_writeReg_of_eq rfl (withLowNibble_eq_ofNat (lowNibble_add_lowNibble_toNat _ _))
  case sub4 => exact completes_writeReg_of_eq rfl (withLowNibble_eq_ofNat (lowNibble_sub_lowNibble_toNat _ _))

/-- Settles O25: each form writes a sign-extended byte, whose value is the lemma named beside it. -/
theorem signExtensionsFillTheWord : Obligations.SignExtensionsFillTheWord := by
  intro s a b
  refine ⟨⟨aluWord_toNat b a (by decide), ?mlls⟩, ⟨wordOf_toNat (by omega), ?sxl⟩,
    ⟨aluWord_toNat b a (by decide), ?mhls⟩, ⟨wordOf_toNat (by omega), ?sxh⟩⟩
  case mlls => exact completes_writeReg_of_eq rfl (signExtend8_lowByte _)
  case sxl => exact completes_writeReg_of_eq rfl (signExtend8_lowByte _)
  case mhls => exact completes_writeReg_of_eq rfl (signExtend8_highByte _)
  case sxh => exact completes_writeReg_of_eq rfl (signExtend8_highByte _)

/-- Settles O26: each form writes an insert, which is a rotation where both operands are one register. -/
theorem insertsShiftInTheLowBits : Obligations.InsertsShiftInTheLowBits := by
  intro s a b
  refine ⟨⟨aluWord_toNat b a (by decide), ?ins4⟩, ⟨aluWord_toNat b a (by decide), ?ins8⟩,
    ⟨aluWord_toNat b a (by decide), ?in12⟩, ⟨wordOf_toNat (by omega), ?ror4⟩, ⟨wordOf_toNat (by omega), ?swap⟩,
    ⟨wordOf_toNat (by omega), ?rol4⟩⟩
  case ins4 => exact completes_writeReg_of_eq rfl (eq_ofNat_of_toNat (insert4_toNat _ _))
  case ins8 => exact completes_writeReg_of_eq rfl (eq_ofNat_of_toNat (insert8_toNat _ _))
  case in12 => exact completes_writeReg_of_eq rfl (eq_ofNat_of_toNat (insert12_toNat _ _))
  case ror4 => exact completes_writeReg_of_eq rfl (insert4_self _)
  case swap => exact completes_writeReg_of_eq rfl (insert8_self _)
  case rol4 => exact completes_writeReg_of_eq rfl (insert12_self _)

end Sys2Proof.Claims
end

section
/-! Logic, single bits and reversal (43_logical.md, 44_shift_rotate.md section 3): the statements O23, O24 and O27. -/

namespace Sys2Proof.Claims

open Sys2Proof.Machine

/-- An instruction that writes register A a word whose bits are `bits`. -/
theorem completes_writeReg_bits {i : Instr} {a : Reg} {w : Word} {s : State} {bits : Nat → Bool}
    (hexec : exec i s = writeReg a w s) (hbits : ∀ n, n < 16 → w.getLsbD n = bits n) :
    Completes i s fun t =>
      (∀ n, n < 16 → (t.getReg a).getLsbD n = bits n) ∧ WritesReg a (t.getReg a) s.flags s t := by
  refine (completes_writeReg hexec).imp fun t ht => ?_
  obtain ⟨hval, hrest⟩ := ht
  rw [hval]
  exact ⟨hbits, hval, hrest⟩

/-- Settles O23: each form writes the word of its bitwise operation. -/
theorem logicFormsWorkBitByBit : Obligations.LogicFormsWorkBitByBit := by
  intro s a b
  refine ⟨⟨aluWord_toNat b a (by decide), ?not⟩, ⟨aluWord_toNat b a (by decide), ?and⟩,
    ⟨aluWord_toNat b a (by decide), ?or⟩, ⟨aluWord_toNat b a (by decide), ?xor⟩⟩
  case not =>
    refine completes_writeReg_bits (w := s.getReg b ^^^ 0xFFFF#16) rfl fun n hn => ?_
    rw [show s.getReg b ^^^ 0xFFFF#16 = ~~~s.getReg b from BitVec.xor_allOnes, BitVec.getLsbD_not]
    simp [hn]
  case and => exact completes_writeReg_bits rfl fun n _ => BitVec.getLsbD_and
  case or => exact completes_writeReg_bits rfl fun n _ => BitVec.getLsbD_or
  case xor => exact completes_writeReg_bits rfl fun n _ => BitVec.getLsbD_xor

/-- Settles O24: the bits of the masks are `lowMask_getLsbD` and `bitMask_getLsbD`. -/
theorem bitFormsChangeTheirBits : Obligations.BitFormsChangeTheirBits := by
  intro s a k
  refine ⟨⟨aluWord_toNat k a (by decide), ?mask⟩, ⟨aluWord_toNat k a (by decide), ?rst⟩,
    ⟨aluWord_toNat k a (by decide), ?setb⟩, ⟨aluWord_toNat k a (by decide), ?inv⟩⟩
  case mask =>
    refine completes_writeReg_bits (w := s.getReg a &&& lowMask k) rfl fun n hn => ?_
    rw [BitVec.getLsbD_and, lowMask_getLsbD k hn, Bool.and_comm]
  case rst =>
    refine completes_writeReg_bits (w := s.getReg a &&& ~~~bitMask k) rfl fun n hn => ?_
    rw [BitVec.getLsbD_and, BitVec.getLsbD_not, bitMask_getLsbD k hn]
    by_cases hk : n = k.toNat <;> simp [hk, hn]
  case setb =>
    refine completes_writeReg_bits (w := s.getReg a ||| bitMask k) rfl fun n hn => ?_
    rw [BitVec.getLsbD_or, bitMask_getLsbD k hn]
    by_cases hk : n = k.toNat <;> simp [hk]
  case inv =>
    refine completes_writeReg_bits (w := s.getReg a ^^^ bitMask k) rfl fun n hn => ?_
    rw [BitVec.getLsbD_xor, bitMask_getLsbD k hn]
    by_cases hk : n = k.toNat <;> simp [hk]

/-- Settles O27. -/
theorem reverseMirrorsTheBits : Obligations.ReverseMirrorsTheBits := by
  intro s a b
  refine ⟨aluWord_toNat b a (by decide), completes_writeReg_bits (w := reverse16 (s.getReg b)) rfl fun n hn => ?_⟩
  rw [reverse16, BitVec.getLsbD_reverse, BitVec.getMsbD]
  simp [hn]

end Sys2Proof.Claims
end

section
/-! The control codes of SHR and SHL, and the two-word shifts (44_shift_rotate.md section 4): the statements O28 and
O30. -/

namespace Sys2Proof.Claims

open Sys2Proof.Machine

/-! R211. Figure 8 by the code's number is the decoder's reading of its bits. -/

theorem carryOut_eq_figure8 (k : BitVec 4) (old : Word) : carryOut k old = figure8Carry k old := by
  simp [carryOut, figure8Carry, BitVec.getLsbD, Nat.testBit_eq_decide_div_mod_eq]

/-- The top two bits of a code name its quarter, and bit 1 the half of its last quarter. -/
theorem code_bits (k : BitVec 4) :
    k[3] = decide (8 ≤ k.toNat) ∧ k[2] = decide (4 ≤ k.toNat % 8) ∧ k[1] = decide (2 ≤ k.toNat % 4) := by
  revert k
  decide

theorem shiftIn_eq_figure8 (k : BitVec 4) (old : Word) (c : Bool) : shiftIn k old c = figure8In k old c := by
  obtain ⟨h3, h2, h1⟩ := code_bits k
  have hlt := k.isLt
  unfold figure8In
  split_ifs with hfirst hsecond hthird
  · simp [shiftIn, h3, h2, show ¬8 ≤ k.toNat by omega, show ¬4 ≤ k.toNat % 8 by omega]
  · simp [shiftIn, h3, h2, show ¬8 ≤ k.toNat by omega, show 4 ≤ k.toNat % 8 by omega]
  · simp [shiftIn, h3, h2, show 8 ≤ k.toNat by omega, show ¬4 ≤ k.toNat % 8 by omega]
  · simp [shiftIn, h3, h2, h1, show 8 ≤ k.toNat by omega, show 4 ≤ k.toNat % 8 by omega]
    omega

theorem exec_shr (a : Reg) (k : BitVec 4) (s : State) :
    exec (.shr a k) s =
      finish ((s.setReg a (shiftRight1 (shiftIn k (s.getReg a) s.flags.c) (s.getReg a))).setC
        (carryOut k (s.getReg a))) := rfl

theorem exec_shl (a : Reg) (k : BitVec 4) (s : State) :
    exec (.shl a k) s =
      finish ((s.setReg a (shiftLeft1 (s.getReg a) (shiftIn k (s.getReg a) s.flags.c))).setC
        (carryOut k (s.getReg a))) := rfl

/-- A shift writes register A the word `w` and C the bit `c`. -/
theorem completes_shift_value {i : Instr} {a : Reg} {w : Word} {c : Bool} {s : State}
    (hexec : exec i s = finish ((s.setReg a w).setC c)) :
    Completes i s fun t => t.getReg a = w ∧ SetsReg a (t.getReg a) { s.flags with c := c } s t := by
  refine (completes_writeRegC hexec).imp fun t ht => ?_
  obtain ⟨hval, hrest⟩ := ht
  exact ⟨hval, setsReg_of_writesReg ⟨rfl, hrest⟩⟩

/-- Settles O28: the bits of the word each form writes, the bit shifted in and C being those of Figure 8. -/
theorem shiftsFollowFigure8 : Obligations.ShiftsFollowFigure8 := by
  intro s a k
  simp only [← carryOut_eq_figure8, ← shiftIn_eq_figure8]
  refine ⟨⟨aluWord_toNat k a (by decide), ?shr⟩, ⟨aluWord_toNat k a (by decide), ?shl⟩⟩
  case shr =>
    refine (completes_shift_value (exec_shr a k s)).imp fun t ht => ?_
    obtain ⟨hval, hset⟩ := ht
    refine ⟨fun n hn => ?_, ?_, hset⟩
    · rw [hval, shiftRight1_getLsbD]
      simp [hn, Nat.add_comm]
    · rw [hval, shiftRight1_getLsbD]
      simp
  case shl =>
    refine (completes_shift_value (exec_shl a k s)).imp fun t ht => ?_
    obtain ⟨hval, hset⟩ := ht
    refine ⟨fun n hn => ?_, ?_, hset⟩
    · rw [hval, shiftLeft1_getLsbD]
      simp [hn]
    · rw [hval, shiftLeft1_getLsbD]
      simp

/-! The named shifts of O29 that a two-word shift is made of. -/

theorem completes_lsl (a : Reg) (s : State) :
    Completes (.lsl a) s (SetsReg a (s.getReg a <<< 1) { s.flags with c := (s.getReg a).getLsbD 15 } s) := by
  obtain ⟨-, -, -, -, -, ⟨-, hlsl⟩, -⟩ := namedShiftsShiftOnePlace s a
  exact hlsl

theorem completes_lsr (a : Reg) (s : State) :
    Completes (.lsr a) s (SetsReg a (s.getReg a >>> 1) { s.flags with c := (s.getReg a).getLsbD 0 } s) := by
  obtain ⟨-, -, -, -, ⟨-, hlsr⟩, -⟩ := namedShiftsShiftOnePlace s a
  exact hlsr

theorem completes_rlc (a : Reg) (s : State) :
    Completes (.rlc a) s
      (SetsReg a (BitVec.ofNat 16 ((s.getReg a).toNat * 2 + s.flags.c.toNat))
        { s.flags with c := (s.getReg a).getLsbD 15 } s) := by
  obtain ⟨-, -, -, ⟨-, hrlc⟩, -⟩ := namedShiftsShiftOnePlace s a
  exact hrlc

theorem completes_rrc (a : Reg) (s : State) :
    Completes (.rrc a) s
      (SetsReg a (BitVec.ofNat 16 (s.flags.c.toNat * 32768 + (s.getReg a).toNat / 2))
        { s.flags with c := (s.getReg a).getLsbD 0 } s) := by
  obtain ⟨-, -, ⟨-, hrrc⟩, -⟩ := namedShiftsShiftOnePlace s a
  exact hrrc

/-! R233. The bits that go from one word of a pair to the other, as numbers. -/

theorem topBit_eq (v : Word) : v.getLsbD 15 = decide (32768 ≤ v.toNat) := by
  have hlt := v.isLt
  rw [getLsbD_eq_decide, decide_eq_decide]
  omega

theorem lowBit_eq (v : Word) : v.getLsbD 0 = decide (v.toNat % 2 = 1) := by
  rw [getLsbD_eq_decide, Nat.pow_zero, Nat.div_one]

theorem pair_double (hi lo : Word) :
    pair (BitVec.ofNat 16 (hi.toNat * 2 + (lo.getLsbD 15).toNat)) (lo <<< 1) = pair hi lo * 2 % 2 ^ 32 := by
  rw [topBit_eq]
  by_cases htop : 32768 ≤ lo.toNat <;> simp [pair, htop, Nat.shiftLeft_eq] <;> omega

theorem pair_halve (hi lo : Word) :
    pair (hi >>> 1) (BitVec.ofNat 16 ((hi.getLsbD 0).toNat * 32768 + lo.toNat / 2)) = pair hi lo / 2 := by
  rw [lowBit_eq]
  by_cases hodd : hi.toNat % 2 = 1 <;> simp [pair, hodd, Nat.shiftRight_eq_div_pow] <;> omega

/-- Settles O30: the first shift leaves in C the bit that the second takes in. -/
theorem twoWordShiftsShift32Bits : Obligations.TwoWordShiftsShift32Bits := by
  intro s hi lo hne
  constructor
  case left =>
    obtain ⟨t, ht, htlo, htflags, htregs, -⟩ := completes_lsl lo s
    obtain ⟨u, hu, huhi, huflags, huregs, -⟩ := completes_rlc hi t
    have hlow : u.getReg lo = s.getReg lo <<< 1 := (huregs lo hne.symm).trans htlo
    rw [htregs hi hne, htflags] at huhi huflags
    refine ⟨t, u, ht, hu, by rw [huhi, hlow, pair_double], ?_⟩
    have hcarry : u.flags.c = (s.getReg hi).getLsbD 15 := congrArg Flags.c huflags
    rw [hcarry, topBit_eq, decide_eq_decide, pair]
    omega
  case right =>
    obtain ⟨t, ht, hthi, htflags, htregs, -⟩ := completes_lsr hi s
    obtain ⟨u, hu, hulo, huflags, huregs, -⟩ := completes_rrc lo t
    have hhigh : u.getReg hi = s.getReg hi >>> 1 := (huregs hi hne).trans hthi
    rw [htregs lo hne.symm, htflags] at hulo huflags
    refine ⟨t, u, ht, hu, by rw [hulo, hhigh, pair_halve], ?_⟩
    have hcarry : u.flags.c = (s.getReg lo).getLsbD 0 := congrArg Flags.c huflags
    rw [hcarry, lowBit_eq, decide_eq_decide, pair]
    omega

end Sys2Proof.Claims
end

section
/-! The multiply-accumulate unit (45_multiply_accumulate.md): the statements O31 to O33, and O34 for both optional
units. -/

namespace Sys2Proof.Machine

theorem needMac_of_present {s : State} (r : Result) (h : s.cfg.hasMac = true) : needMac s r = r := by
  simp [needMac, h]

theorem needMac_of_absent {s : State} (r : Result) (h : s.cfg.hasMac = false) :
    needMac s r = .refused .noMacUnit := by
  simp [needMac, h]

theorem needDiv_of_present {s : State} (r : Result) (h : s.cfg.hasDiv = true) : needDiv s r = r := by
  simp [needDiv, h]

theorem needDiv_of_absent {s : State} (r : Result) (h : s.cfg.hasDiv = false) :
    needDiv s r = .refused .noDivUnit := by
  simp [needDiv, h]

/-- R250. Modulo 2^32 the accumulator read as unsigned or as signed is one number. -/
theorem ofInt_toNat_add (acc : BitVec 32) (p : Int) :
    BitVec.ofInt 32 (acc.toNat + p) = BitVec.ofInt 32 (acc.toInt + p) := by
  rw [BitVec.ofInt_add, BitVec.ofInt_add, BitVec.ofInt_toInt, BitVec.ofInt_natCast, BitVec.ofNat_toNat,
    BitVec.setWidth_eq]

theorem ofInt_toNat_sub (acc : BitVec 32) (p : Int) :
    BitVec.ofInt 32 (acc.toNat - p) = BitVec.ofInt 32 (acc.toInt - p) := by
  simpa [Int.sub_eq_add_neg] using ofInt_toNat_add acc (-p)

end Sys2Proof.Machine

namespace Sys2Proof.Claims

open Sys2Proof.Machine

/-- R250. An instruction that writes `v` modulo 2^32 to the accumulator. -/
theorem completes_writeAcc {i : Instr} {v : Int} {s : State} (hmac : s.cfg.hasMac = true)
    (h : exec i s = writeAcc v s) : Completes i s (WritesAcc v s) := by
  refine ⟨retire (next s) { s with acc := BitVec.ofInt 32 v }, h.trans (needMac_of_present _ hmac), rfl, rfl,
    fun _ => rfl, advances_retire s _ rfl rfl, ⟨fun _ => rfl, rfl⟩, ⟨rfl, rfl⟩, ⟨rfl, rfl, rfl⟩, ⟨rfl, rfl⟩, rfl, rfl⟩

/-- Settles O31: each form ends in `writeAcc`. -/
theorem unsignedMultipliesWriteTheAccumulator : Obligations.UnsignedMultipliesWriteTheAccumulator := fun s a b hmac =>
  ⟨⟨aluWord_toNat b a (by decide), completes_writeAcc hmac rfl⟩,
    ⟨aluWord_toNat b a (by decide), completes_writeAcc hmac rfl⟩,
    ⟨aluWord_toNat b a (by decide), completes_writeAcc hmac rfl⟩,
    ⟨aluWord_toNat b a (by decide), completes_writeAcc hmac rfl⟩⟩

/-- An instruction that writes a number equal to `v` modulo 2^32 to the accumulator. -/
theorem completes_writeAcc_of_eq {i : Instr} {v w : Int} {s : State} (hmac : s.cfg.hasMac = true)
    (h : exec i s = writeAcc w s) (hw : BitVec.ofInt 32 w = BitVec.ofInt 32 v) : Completes i s (WritesAcc v s) := by
  refine (completes_writeAcc hmac h).imp fun t ht => ?_
  obtain ⟨hacc, hrest⟩ := ht
  exact ⟨hacc.trans hw, hrest⟩

/-- Settles O32: each form ends in `writeAcc`; modulo 2^32 the sense in which the accumulator is read does not
matter. -/
theorem signedMultipliesWriteTheAccumulator : Obligations.SignedMultipliesWriteTheAccumulator := fun s a b hmac =>
  ⟨⟨aluWord_toNat b a (by decide), completes_writeAcc hmac rfl⟩,
    ⟨aluWord_toNat b a (by decide), completes_writeAcc hmac rfl⟩,
    ⟨aluWord_toNat b a (by decide), completes_writeAcc_of_eq hmac rfl (ofInt_toNat_add _ _)⟩,
    ⟨aluWord_toNat b a (by decide), completes_writeAcc_of_eq hmac rfl (ofInt_toNat_sub _ _)⟩⟩

/-- Settles O33. -/
theorem accumulatorReadsCopyItsHalves : Obligations.AccumulatorReadsCopyItsHalves := by
  intro s a hmac
  refine ⟨⟨aluWord_toNat 0#4 a (by decide), ?lpl⟩, ⟨aluWord_toNat 0#4 a (by decide), ?lph⟩⟩
  case lpl =>
    refine completes_writeReg_of_eq (needMac_of_present _ hmac) (eq_ofNat_of_toNat ?_)
    simp
  case lph =>
    have hlt := s.acc.isLt
    refine completes_writeReg_of_eq (needMac_of_present _ hmac) (eq_ofNat_of_toNat ?_)
    simp [Nat.shiftRight_eq_div_pow]
    omega

/-- Settles O34: each instruction of a unit first asks for the unit. -/
theorem absentUnitsAreRefused : Obligations.AbsentUnitsAreRefused := by
  intro s a b
  constructor
  · intro habsent i hi
    simp only [macInstructions, List.mem_cons, List.not_mem_nil, or_false] at hi
    obtain rfl | rfl | rfl | rfl | rfl | rfl | rfl | rfl | rfl | rfl := hi <;> exact needMac_of_absent _ habsent
  · intro habsent i hi
    simp only [divInstructions, List.mem_cons, List.not_mem_nil, or_false] at hi
    obtain rfl | rfl | rfl | rfl := hi <;> exact needDiv_of_absent _ habsent

end Sys2Proof.Claims
end

section
/-! The divider (46_division.md): the statements O35 to O41. -/

namespace Sys2Proof.Machine

/-- R271, R272. A division whose quotient fits a word leaves quotient and remainder as numbers. -/
theorem divideBy_toNat (s : State) {n : Nat} {d : Word} (hd : d ≠ 0#16) (hn : n / d.toNat < 65536) :
    (s.divideBy n d).divq.toNat = n / d.toNat ∧ (s.divideBy n d).divr.toNat = n % d.toNat ∧
      (s.divideBy n d).drawn = s.drawn := by
  obtain ⟨hdivq, hdivr, hdrawn⟩ := divideBy_of_ne s n hd
  have hpos : 0 < d.toNat := Nat.pos_of_ne_zero fun e => hd (BitVec.eq_of_toNat_eq e)
  have hmod := Nat.mod_lt n hpos
  have hlt := d.isLt
  refine ⟨?_, ?_, hdrawn⟩
  · rw [hdivq, BitVec.toNat_ofNat, Nat.mod_eq_of_lt (by omega)]
  · rw [hdivr, BitVec.toNat_ofNat, Nat.mod_eq_of_lt (by omega)]

/-- R276. A division by zero draws one free value. -/
theorem drawn_divideBy_zero (s : State) (n : Nat) : (s.divideBy n 0#16).drawn = s.drawn + 1 := by
  simp [State.divideBy]

/-- R270. A division starts where the divider is present and idle. -/
theorem startDivision_of_idle {wait : Nat} {s : State} (s' : State) (hdiv : s.cfg.hasDiv = true)
    (hidle : s.divWait = 0) :
    startDivision wait s s' = .next { retire (seqPc s) s' with divWait := wait } := by
  simp [startDivision, needDiv_of_present _ hdiv, hidle]

/-- R271. A division while the divider works is refused. -/
theorem startDivision_of_busy {wait : Nat} {s : State} (s' : State) (hdiv : s.cfg.hasDiv = true)
    (hbusy : s.divWait ≠ 0) : startDivision wait s s' = .refused .divisionWhileBusy := by
  simp [startDivision, needDiv_of_present _ hdiv, hbusy]

theorem readDivider_of_idle {a : Reg} {done busy : Word} {s : State} (hdiv : s.cfg.hasDiv = true)
    (hidle : s.divWait = 0) : readDivider a done busy s = writeReg a done s := by
  simp [readDivider, needDiv_of_present _ hdiv, hidle]

theorem readDivider_of_busy {a : Reg} {done busy : Word} {s : State} (hdiv : s.cfg.hasDiv = true)
    (hbusy : s.divWait ≠ 0) : readDivider a done busy s = writeReg a busy { s with drawn := s.drawn + 1 } := by
  simp [readDivider, needDiv_of_present _ hdiv, hbusy]

end Sys2Proof.Machine

namespace Sys2Proof.Claims

open Sys2Proof.Machine

/-- R270. A division changes the divider's registers and the draw counter, and sets the wait. -/
theorem startsDivision_retire (wait n : Nat) (d e : Word) (s : State) :
    StartsDivision wait s
      { retire (seqPc s) { s.divideBy n d with divd := e } with divWait := wait } :=
  ⟨rfl, rfl, congrArg (· - 1) (divideBy_rep s n d), rfl, divideBy_flags s n d,
    fun r => getReg_of_x_eq (divideBy_x s n d) r, ⟨fun _ => by rw [retire_mem, divideBy_mem], divideBy_stored s n d⟩,
    ⟨divideBy_ras s n d, divideBy_rsp s n d⟩, divideBy_acc s n d, ⟨divideBy_io s n d, divideBy_portIn s n d⟩,
    divideBy_cfg s n d⟩

/-- R272. FDIV keeps the divisor. -/
theorem divideBy_with_divd (s : State) (n : Nat) (d : Word) :
    { s.divideBy n d with divd := s.divd } = s.divideBy n d := by
  unfold State.divideBy
  split <;> rfl

/-- R271. IDIV where the divider is present and idle: its registers are those of the division, and it keeps its
divisor. -/
theorem completes_idiv (a b : Reg) {s : State} (hdiv : s.cfg.hasDiv = true) (hidle : s.divWait = 0) :
    Completes (.idiv a b) s fun t =>
      t.divq = (s.divideBy (s.getReg a).toNat (s.getReg b)).divq ∧
        t.divr = (s.divideBy (s.getReg a).toNat (s.getReg b)).divr ∧ t.divd = s.getReg b ∧
        t.drawn = (s.divideBy (s.getReg a).toNat (s.getReg b)).drawn ∧ StartsDivision 18 s t := by
  exact ⟨_, startDivision_of_idle _ hdiv hidle, rfl, rfl, rfl, rfl, startsDivision_retire 18 _ _ _ s⟩

/-- R272. FDIV where the divider is present and idle. -/
theorem completes_fdiv {s : State} (hdiv : s.cfg.hasDiv = true) (hidle : s.divWait = 0) :
    Completes .fdiv s fun t =>
      t.divq = (s.divideBy (s.divr.toNat * 2 ^ 16) s.divd).divq ∧
        t.divr = (s.divideBy (s.divr.toNat * 2 ^ 16) s.divd).divr ∧ t.divd = s.divd ∧
        t.drawn = (s.divideBy (s.divr.toNat * 2 ^ 16) s.divd).drawn ∧ StartsDivision 17 s t := by
  refine ⟨_, startDivision_of_idle _ hdiv hidle, rfl, rfl, divideBy_divd _ _ _, rfl, ?_⟩
  rw [← divideBy_with_divd]
  exact startsDivision_retire 17 _ _ _ s

/-- Settles O35. -/
theorem idivLeavesQuotientAndRemainder : Obligations.IdivLeavesQuotientAndRemainder := by
  intro s a b hdiv hidle hb
  have hfits : (s.getReg a).toNat / (s.getReg b).toNat < 65536 :=
    Nat.lt_of_le_of_lt (Nat.div_le_self _ _) (s.getReg a).isLt
  obtain ⟨hquot, hrem, hdrawn⟩ := divideBy_toNat s hb hfits
  refine ⟨aluWord_toNat b a (by decide), (completes_idiv a b hdiv hidle).imp fun t ht => ?_⟩
  rwa [hdrawn, ← BitVec.toNat_inj, ← BitVec.toNat_inj, hquot, hrem] at ht

/-- Settles O36. -/
theorem divisionByZeroCompletes : Obligations.DivisionByZeroCompletes := by
  intro s a b hdiv hidle
  constructor
  · intro hzero
    refine (completes_idiv a b hdiv hidle).imp fun t ht => ?_
    obtain ⟨-, -, hdivd, hdrawn, hstarts⟩ := ht
    rw [hzero] at hdivd hdrawn
    exact ⟨hdivd, hdrawn.trans (drawn_divideBy_zero s _), hstarts⟩
  · intro hzero
    refine (completes_fdiv hdiv hidle).imp fun t ht => ?_
    obtain ⟨-, -, hdivd, hdrawn, hstarts⟩ := ht
    rw [hzero] at hdivd hdrawn
    exact ⟨hdivd, hdrawn.trans (drawn_divideBy_zero s _), hstarts⟩

/-- Settles O37: the remainder is below the divisor, so the quotient has sixteen places. -/
theorem fdivLeavesTheFraction : Obligations.FdivLeavesTheFraction := by
  intro s hdiv hidle hrem
  have hd : s.divd ≠ 0#16 := by
    intro hzero
    simp [hzero] at hrem
  have hfits : s.divr.toNat * 2 ^ 16 / s.divd.toNat < 65536 := by
    rw [Nat.div_lt_iff_lt_mul (by omega)]
    omega
  obtain ⟨hquot, hrem, hdrawn⟩ := divideBy_toNat s hd hfits
  refine ⟨wordOf_toNat (by decide), (completes_fdiv hdiv hidle).imp fun t ht => ?_⟩
  rwa [hdrawn, ← BitVec.toNat_inj, ← BitVec.toNat_inj, hquot, hrem] at ht

/-- Settles O38. -/
theorem divisionWhileBusyIsRefused : Obligations.DivisionWhileBusyIsRefused :=
  fun _ _ _ hdiv hbusy => ⟨startDivision_of_busy _ hdiv hbusy, startDivision_of_busy _ hdiv hbusy⟩

/-- Settles O39. -/
theorem dividerReadsCopyItsRegisters : Obligations.DividerReadsCopyItsRegisters := fun _ a hdiv hidle =>
  ⟨⟨aluWord_toNat 0#4 a (by decide), completes_writeReg (readDivider_of_idle hdiv hidle)⟩,
    ⟨aluWord_toNat 0#4 a (by decide), completes_writeReg (readDivider_of_idle hdiv hidle)⟩⟩

/-- R273 to R275. A read of the divider while it works writes the free value `v`, which is drawn. -/
theorem completes_busyRead {i : Instr} {a : Reg} {v : Word} {s : State}
    (h : exec i s = writeReg a v { s with drawn := s.drawn + 1 }) :
    Completes i s fun t =>
      t.getReg a = v ∧ KeepsRegsBut a s t ∧ t.flags = s.flags ∧ Advances s t ∧ KeepsMemory s t ∧ KeepsRas s t ∧
        t.acc = s.acc ∧ KeepsDivider s t ∧ KeepsPorts s t ∧ t.drawn = s.drawn + 1 ∧ t.cfg = s.cfg := by
  refine ⟨_, h, getReg_setReg_self { s with drawn := s.drawn + 1 } a v, fun r hr => ?_, rfl,
    advances_retire s _ rfl rfl, ⟨fun _ => rfl, rfl⟩, ⟨rfl, rfl⟩, rfl, ⟨rfl, rfl, rfl⟩, ⟨rfl, rfl⟩, rfl, rfl⟩
  exact getReg_setReg_ne { s with drawn := s.drawn + 1 } v hr

/-- Settles O40: LQ and LR write the free value, and bit 15 of LR's is 1. -/
theorem dividerReadsWhileBusyComplete : Obligations.DividerReadsWhileBusyComplete := by
  intro s a hdiv hbusy i hi
  simp only [List.mem_cons, List.not_mem_nil, or_false] at hi
  obtain rfl | rfl := hi
  case inl =>
    have hexec : exec (.lq a) s = _ := readDivider_of_busy hdiv hbusy
    refine (completes_busyRead hexec).imp fun t ht => ?_
    obtain ⟨-, hrest⟩ := ht
    exact ⟨nofun, hrest⟩
  case inr =>
    have hexec : exec (.lr a) s = _ := readDivider_of_busy hdiv hbusy
    refine (completes_busyRead hexec).imp fun t ht => ?_
    obtain ⟨hval, hrest⟩ := ht
    refine ⟨fun _ => ?_, hrest⟩
    rw [hval, BitVec.getLsbD_append]
    simp

/-- R278. The two quotients of a long division in two parts are the quotient of the whole. -/
theorem quotient_of_two_parts (a b : Nat) (hb : 0 < b) : a / b * 65536 + a % b * 65536 / b = a * 65536 / b := by
  have hsplit : a * 65536 = b * (a / b * 65536) + a % b * 65536 := by
    rw [← Nat.mul_assoc, ← Nat.add_mul, Nat.div_add_mod]
  rw [hsplit, Nat.mul_add_div hb]

/-- Settles O41: FDIV divides the remainder that IDIV left (O35, O37). -/
theorem idivThenFdivDivides32Bits : Obligations.IdivThenFdivDivides32Bits := by
  intro s t u a b hb hexec hdivr hdivd hidle hdiv
  obtain ⟨hsdiv, hsidle, -⟩ := exec_idiv_eq_next hexec
  obtain ⟨-, t', ht', hquot, hrem, hdivisor, -⟩ := idivLeavesQuotientAndRemainder s a b hsdiv hsidle hb
  obtain rfl : t = t' := by
    rw [hexec] at ht'
    cases ht'
    rfl
  have hpos : 0 < (s.getReg b).toNat := Nat.pos_of_ne_zero fun e => hb (BitVec.eq_of_toNat_eq e)
  rw [hdivisor] at hdivd
  rw [← hdivr] at hrem
  have hbelow : u.divr.toNat < u.divd.toNat := by
    rw [hrem, hdivd]
    exact Nat.mod_lt _ hpos
  obtain ⟨-, v, hv, hvquot, hvrem, -⟩ := fdivLeavesTheFraction u hdiv hidle hbelow
  rw [hrem, hdivd] at hvquot hvrem
  refine ⟨v, hv, ?_, ?_⟩
  · rw [hquot, hvquot, quotient_of_two_parts _ _ hpos]
  · rw [hvrem, Nat.mod_mul_mod]

end Sys2Proof.Claims
end

section
/-! SUPPORT. Control transfers: what a transfer changes, the conditions, and the named forms of JMP, RET and LOOP. -/

namespace Sys2Proof.Machine

theorem unlessRep_of_ne {s : State} (r : Result) (h : s.rep ≠ 0) : unlessRep s r = .refused .undefinedUnderRep := by
  simp [unlessRep, h]

end Sys2Proof.Machine

namespace Sys2Proof.Claims

open Sys2Proof.Machine

/-- The end of a transfer that leaves the stack as `ras` and `rsp`. -/
theorem transfers_retire (target : ProgAddr) (ras : Vector ProgAddr 16) (rsp : BitVec 4) (s : State) :
    Transfers target ras rsp s (retire target { s with ras := ras, rsp := rsp }) :=
  ⟨⟨rfl, rfl, rfl, rfl⟩, rfl, rfl, rfl, fun _ => rfl, ⟨fun _ => rfl, rfl⟩, rfl, ⟨rfl, rfl, rfl⟩, ⟨rfl, rfl⟩, rfl, rfl⟩

/-- R100. -/
theorem condHolds_iff (cc : Cond) (f : Flags) : condHolds cc f = true ↔ condTrue cc f := by
  cases cc <;> simp [condHolds, condTrue]

theorem condHolds_eq_false {cc : Cond} {f : Flags} (h : ¬condTrue cc f) : condHolds cc f = false := by
  rwa [← condHolds_iff, Bool.not_eq_true] at h

/-! R292. A named form has the meaning and the word of its condition. -/

theorem exec_jumpName (cc : Cond) (rel : BitVec 9) (s : State) : exec (jumpName cc rel) s = jumpOn cc rel s := by
  cases cc <;> rfl

theorem exec_returnName (cc : Cond) (s : State) : exec (returnName cc) s = returnOn cc s := by
  cases cc <;> rfl

theorem exec_loopName (cc : Cond) (s : State) : exec (loopName cc) s = loopOn cc s := by
  cases cc <;> rfl

theorem hasWord_of_canon {i j : Instr} {n : Nat} (hwf : i.wf = true) (hcanon : i.canon = j) (h : HasWord j n) :
    HasWord i n := by
  obtain ⟨-, -, hword⟩ := Laws.WordIsCanonical.all i hwf
  rw [HasWord, ← hword, hcanon]
  exact h

theorem hasWord_jmp (cc : Cond) (rel : BitVec 9) : HasWord (.jmp cc rel) (0x4000 + cc.code * 0x200 + rel.toNat) :=
  flowWord_toNat cc (by omega)

theorem hasWord_jumpName (cc : Cond) (rel : BitVec 9) :
    HasWord (jumpName cc rel) (0x4000 + cc.code * 0x200 + rel.toNat) :=
  hasWord_of_canon (by cases cc <;> rfl) (by cases cc <;> rfl) (hasWord_jmp cc rel)

theorem hasWord_ret (cc : Cond) : HasWord (.ret cc) (0x5000 + cc.code * 0x200) :=
  flowWord_toNat cc (by decide)

theorem hasWord_returnName (cc : Cond) : HasWord (returnName cc) (0x5000 + cc.code * 0x200) :=
  hasWord_of_canon (by cases cc <;> rfl) (by cases cc <;> rfl) (hasWord_ret cc)

theorem hasWord_loop (cc : Cond) : HasWord (.loop cc) (0x5100 + cc.code * 0x200) :=
  flowWord_toNat cc (by decide)

theorem hasWord_loopName (cc : Cond) : HasWord (loopName cc) (0x5100 + cc.code * 0x200) :=
  hasWord_of_canon (by cases cc <;> rfl) (by cases cc <;> rfl) (hasWord_loop cc)

end Sys2Proof.Claims
end

section
/-! Program flow (40_program_flow.md): the statements O42 to O48. -/

namespace Sys2Proof.Claims

open Sys2Proof.Machine

/-- R102, R107, R108. An instruction that pushes `v` and goes to `target`. -/
theorem completes_push {i : Instr} {target v : ProgAddr} {s : State} (hrep : s.rep = 0)
    (h : exec i s = unlessRep s (goTo target (s.rasPush v))) :
    Completes i s (Transfers target (s.ras.set (s.rsp + 1).toNat v) (s.rsp + 1) s) :=
  ⟨_, h.trans (unlessRep_of _ hrep), transfers_retire target _ _ s⟩

/-- With no repetition pending, to go on is to go to the next address. -/
theorem finish_eq_goTo {s : State} (hrep : s.rep = 0) : finish s = goTo (s.pc + 1) s := by
  rw [finish, seqPc_of_rep_zero hrep, goTo]

/-- Settles O42. -/
theorem pushingInstructionsPush : Obligations.PushingInstructionsPush := by
  intro s target a hrep
  have hnext (v : ProgAddr) : finish (s.rasPush v) = goTo (s.pc + 1) (s.rasPush v) := finish_eq_goTo hrep
  refine ⟨⟨wordOf_toNat (by omega), ?call⟩, ⟨wordOf_toNat (by decide), ?mark⟩, ⟨wordOf_toNat (by omega), ?stra⟩⟩
  case call => exact completes_push hrep rfl
  case mark => exact completes_push hrep (congrArg (unlessRep s) (hnext (s.pc + 1)))
  case stra => exact completes_push hrep (congrArg (unlessRep s) (hnext ((s.getReg a).extractLsb' 0 14)))

/-- R103. An instruction that jumps on a condition. -/
theorem completes_jumpOn {i : Instr} {cc : Cond} {rel : BitVec 9} {s : State} (h : exec i s = jumpOn cc rel s) :
    (condTrue cc s.flags → s.rep = 0 →
      Completes i s (Transfers (BitVec.ofInt 14 (s.pc.toNat + 1 + rel.toInt)) s.ras s.rsp s)) ∧
    (¬condTrue cc s.flags → Completes i s (Transfers (Claims.next s) s.ras s.rsp s)) := by
  constructor
  · intro hcc hrep
    refine ⟨_, h.trans ?_, transfers_retire _ _ _ s⟩
    rw [jumpOn, if_pos ((condHolds_iff cc s.flags).mpr hcc), unlessRep_of _ hrep, jumpTarget_eq]
    rfl
  · intro hcc
    refine ⟨_, h.trans ?_, transfers_retire _ _ _ s⟩
    rw [jumpOn, condHolds_eq_false hcc]
    rfl

/-- Settles O43. -/
theorem jumpsFollowTheirCondition : Obligations.JumpsFollowTheirCondition := by
  intro s cc rel i hi
  obtain rfl | rfl : i = .jmp cc rel ∨ i = jumpName cc rel := by simpa using hi
  · exact ⟨hasWord_jmp cc rel, completes_jumpOn rfl⟩
  · exact ⟨hasWord_jumpName cc rel, completes_jumpOn (exec_jumpName cc rel s)⟩

/-- R105. An instruction that returns on a condition. -/
theorem completes_returnOn {i : Instr} {cc : Cond} {s : State} (h : exec i s = returnOn cc s) :
    (condTrue cc s.flags → s.rep = 0 →
      Completes i s (Transfers s.ras[s.rsp.toNat] s.ras (s.rsp - 1) s)) ∧
    (¬condTrue cc s.flags → Completes i s (Transfers (Claims.next s) s.ras s.rsp s)) := by
  constructor
  · intro hcc hrep
    refine ⟨_, h.trans ?_, transfers_retire _ _ _ s⟩
    rw [returnOn, if_pos ((condHolds_iff cc s.flags).mpr hcc), unlessRep_of _ hrep]
    rfl
  · intro hcc
    refine ⟨_, h.trans ?_, transfers_retire _ _ _ s⟩
    rw [returnOn, condHolds_eq_false hcc]
    rfl

/-- Settles O44. -/
theorem returnsFollowTheirCondition : Obligations.ReturnsFollowTheirCondition := by
  intro s cc i hi
  obtain rfl | rfl : i = .ret cc ∨ i = returnName cc := by simpa using hi
  · exact ⟨hasWord_ret cc, completes_returnOn rfl⟩
  · exact ⟨hasWord_returnName cc, completes_returnOn (exec_returnName cc s)⟩

/-- R106. An instruction that loops on a condition. -/
theorem completes_loopOn {i : Instr} {cc : Cond} {s : State} (hrep : s.rep = 0) (h : exec i s = loopOn cc s) :
    (condTrue cc s.flags → Completes i s (Transfers s.ras[s.rsp.toNat] s.ras s.rsp s)) ∧
    (¬condTrue cc s.flags → Completes i s (Transfers (s.pc + 1) s.ras (s.rsp - 1) s)) := by
  rw [loopOn, unlessRep_of _ hrep] at h
  constructor
  · intro hcc
    refine ⟨_, h.trans ?_, transfers_retire _ _ _ s⟩
    rw [if_pos ((condHolds_iff cc s.flags).mpr hcc)]
    rfl
  · intro hcc
    have hnext : finish s.rasDrop = goTo (s.pc + 1) s.rasDrop := finish_eq_goTo hrep
    refine ⟨_, h.trans ?_, transfers_retire _ _ _ s⟩
    rw [condHolds_eq_false hcc, hnext]
    rfl

/-- Settles O45. -/
theorem loopsFollowTheirCondition : Obligations.LoopsFollowTheirCondition := by
  intro s cc hrep i hi
  obtain rfl | rfl : i = .loop cc ∨ i = loopName cc := by simpa using hi
  · exact ⟨hasWord_loop cc, completes_loopOn hrep rfl⟩
  · exact ⟨hasWord_loopName cc, completes_loopOn hrep (exec_loopName cc s)⟩

/-- Settles O46: REP and RPT are `repeatNext`. -/
theorem repOwesTheNextInstruction : Obligations.RepOwesTheNextInstruction := by
  intro s count hrep i hi
  have hexec : exec i s = repeatNext count s ∧ HasWord i (0x6800 + count.toNat) := by
    obtain rfl | rfl : i = .rep count ∨ i = .rpt count := by simpa using hi
    · exact ⟨rfl, wordOf_toNat (by omega)⟩
    · exact ⟨rfl, wordOf_toNat (by omega)⟩
  obtain ⟨hexec, hword⟩ := hexec
  exact ⟨hword, _, hexec.trans (unlessRep_of _ hrep), rfl, rfl, rfl, rfl, rfl, fun _ => rfl, keepsRest_refl s⟩

/-- An instruction that only ends. -/
theorem completes_finish {i : Instr} {s : State} (h : exec i s = finish s) :
    Completes i s (WritesFlags s.flags s) :=
  ⟨_, h, rfl, fun _ => rfl, advances_retire s s rfl rfl, keepsRest_refl s⟩

/-- Settles O47: the condition Never is false, and the no-access form does nothing. -/
theorem noOperationsOnlyAdvance : Obligations.NoOperationsOnlyAdvance := by
  intro s rel
  refine ⟨wordOf_toNat (by decide), fun i hi => ?_⟩
  simp only [List.mem_cons, List.not_mem_nil, or_false] at hi
  obtain rfl | rfl | rfl | rfl | rfl := hi <;> exact completes_finish rfl

/-- Settles O48: each of the six begins with the question for a repetition, and JMP and RET do once they are taken. -/
theorem refusedWhileRepeating : Obligations.RefusedWhileRepeating := by
  intro s cc target rel a n hrep
  constructor
  · intro i hi
    simp only [List.mem_cons, List.not_mem_nil, or_false] at hi
    obtain rfl | rfl | rfl | rfl | rfl | rfl := hi <;> exact unlessRep_of_ne _ hrep
  · intro hcc
    have htaken := (condHolds_iff cc s.flags).mpr hcc
    exact ⟨(if_pos htaken).trans (unlessRep_of_ne _ hrep), (if_pos htaken).trans (unlessRep_of_ne _ hrep)⟩

end Sys2Proof.Claims
end

section
/-! Repetition and the return-address stack as a whole (10_state.md section 6, 40_program_flow.md): the statements O49
to O51. -/

namespace Sys2Proof.Claims

open Sys2Proof.Machine

/-! Executing an instruction many times. -/

theorem execTimes_succ {n : Nat} {i : Instr} {s u : State} (h : exec i s = .next u) :
    execTimes (n + 1) i s = execTimes n i u := by
  rw [execTimes, h]

theorem execTimes_succ_eq_next {n : Nat} {i : Instr} {s t : State} (h : execTimes (n + 1) i s = .next t) :
    ∃ u, exec i s = .next u ∧ execTimes n i u = .next t := by
  rw [execTimes] at h
  split at h
  · next u hu => exact ⟨u, hu, h⟩
  · cases h
  · cases h

/-- R109, R110. A REP under a repetition is refused, so under one every instruction that answers takes one from what is
owed. -/
theorem rep_of_exec {i : Instr} {s t : State} (hrep : s.rep ≠ 0) (h : exec i s = .next t) : t.rep = s.rep - 1 := by
  obtain hless | ⟨n, hn, -⟩ := (changesOnly_of_exec h).rep
  · exact hless
  · have hcanon := exec_canon_eq_next h
    rw [hn] at hcanon
    obtain ⟨hnone, -⟩ := repeatNext_eq_next hcanon
    exact absurd hnone hrep

/-- R101. Under a repetition the program counter moves with the last execution owed. -/
theorem pc_of_exec {i : Instr} {s t : State} (hrep : s.rep ≠ 0) (h : exec i s = .next t) :
    t.pc = if 1 < s.rep then s.pc else s.pc + 1 :=
  (changesOnly_of_exec h).pc hrep

/-- Settles O49, by induction on the number of executions. -/
theorem repetitionHoldsThePcThenMovesOn : Obligations.RepetitionHoldsThePcThenMovesOn := by
  intro m
  induction m with
  | zero =>
    intro i s t hrep _ h
    cases h
    exact ⟨rfl, fun _ => rfl, fun hnone => absurd hnone.symm hrep⟩
  | succ m ih =>
    intro i s t hrep hle h
    obtain ⟨u, hu, ht⟩ := execTimes_succ_eq_next h
    have hurep := rep_of_exec hrep hu
    have hupc := pc_of_exec hrep hu
    by_cases hlast : s.rep = 1
    · obtain rfl : m = 0 := by omega
      cases ht
      rw [if_neg (by omega)] at hupc
      exact ⟨by omega, fun hlt => absurd hlt (by omega), fun _ => hupc⟩
    · rw [if_pos (by omega)] at hupc
      obtain ⟨htrep, hhold, hmove⟩ := ih i u t (by omega) (by omega) ht
      rw [hupc] at hhold hmove
      exact ⟨by omega, fun hlt => hhold (by omega), fun heq => hmove (by omega)⟩

/-- R233. An instruction that applies `f` to register A and leaves the others, executed `n` times. -/
theorem execTimes_iterate {i : Instr} {a : Reg} {f : Word → Word}
    (hstep : ∀ s, Completes i s fun t => t.getReg a = f (s.getReg a) ∧ KeepsRegsBut a s t) (n : Nat) (s : State) :
    ∃ t, execTimes n i s = .next t ∧ t.getReg a = f^[n] (s.getReg a) ∧ KeepsRegsBut a s t := by
  induction n generalizing s with
  | zero => exact ⟨s, rfl, rfl, fun _ _ => rfl⟩
  | succ n ih =>
    obtain ⟨u, hu, huval, huregs⟩ := hstep s
    obtain ⟨t, ht, htval, htregs⟩ := ih u
    refine ⟨t, (execTimes_succ hu).trans ht, ?_, fun r hr => (htregs r hr).trans (huregs r hr)⟩
    rw [htval, huval, Function.iterate_succ_apply]

theorem iterate_shiftLeft_one (n : Nat) (v : Word) : (fun w : Word => w <<< 1)^[n] v = v <<< n := by
  induction n with
  | zero => simp
  | succ n ih => rw [Function.iterate_succ_apply', ih, ← BitVec.shiftLeft_add]

theorem iterate_ushiftRight_one (n : Nat) (v : Word) : (fun w : Word => w >>> 1)^[n] v = v >>> n := by
  induction n with
  | zero => simp
  | succ n ih => rw [Function.iterate_succ_apply', ih, ← BitVec.shiftRight_add]

/-- Settles O50: `n` executions apply the shift by one place `n` times. -/
theorem repeatedShiftsShiftByTheCount : Obligations.RepeatedShiftsShiftByTheCount := by
  intro n s a
  rw [← iterate_shiftLeft_one, ← iterate_ushiftRight_one]
  constructor
  · exact execTimes_iterate (fun s => (completes_lsl a s).imp fun _ ⟨hval, _, hregs, _⟩ => ⟨hval, hregs⟩) n s
  · exact execTimes_iterate (fun s => (completes_lsr a s).imp fun _ ⟨hval, _, hregs, _⟩ => ⟨hval, hregs⟩) n s

/-! The stack by the depth of its entries. -/

/-- R29. The entry `j` places below the top; `RasTop()` is that at depth 0. -/
def rasEntry (s : State) (j : Nat) : ProgAddr := s.ras[(s.rsp - BitVec.ofNat 4 j).toNat]

theorem rasEntry_zero (s : State) : rasEntry s 0 = s.rasTop := by
  simp [rasEntry, State.rasTop]

theorem rasEntry_rasDrop (s : State) (j : Nat) : rasEntry s.rasDrop j = rasEntry s (j + 1) := by
  have hindex : s.rsp - 1 - BitVec.ofNat 4 j = s.rsp - BitVec.ofNat 4 (j + 1) := by bv_omega
  simp only [rasEntry, rasDrop_ras, rasDrop_rsp, hindex]

/-- D6. A push leaves the fifteen entries that were on top. -/
theorem rasEntry_rasPush_succ (s : State) (v : ProgAddr) {j : Nat} (hj : j < 15) :
    rasEntry (s.rasPush v) (j + 1) = rasEntry s j := by
  have hindex : s.rsp + 1 - BitVec.ofNat 4 (j + 1) = s.rsp - BitVec.ofNat 4 j := by bv_omega
  have hne : (s.rsp + 1).toNat ≠ (s.rsp - BitVec.ofNat 4 j).toNat := by bv_omega
  simp only [rasEntry, rasPush_ras, rasPush_rsp, hindex]
  exact Vector.getElem_set_ne _ _ hne

theorem popAll_succ (n : Nat) (s : State) :
    popAll (n + 1) s = (s.rasTop :: (popAll n s.rasDrop).1, (popAll n s.rasDrop).2) := rfl

theorem popAll_addresses (n : Nat) (s : State) : (popAll n s).1 = (List.range n).map (rasEntry s) := by
  induction n generalizing s with
  | zero => rfl
  | succ n ih =>
    rw [popAll_succ, List.range_succ_eq_map, List.map_cons, rasEntry_zero, List.map_map]
    have hbelow : (List.range n).map (rasEntry s.rasDrop) = (List.range n).map (rasEntry s ∘ Nat.succ) :=
      List.map_congr_left fun j _ => rasEntry_rasDrop s j
    exact congrArg (s.rasTop :: ·) ((ih s.rasDrop).trans hbelow)

theorem rsp_popAll (n : Nat) (s : State) : (popAll n s).2.rsp = s.rsp - BitVec.ofNat 4 n := by
  induction n generalizing s with
  | zero => simp [popAll]
  | succ n ih =>
    rw [popAll_succ, ih, rasDrop_rsp]
    bv_omega

theorem pushAll_append (vs : List ProgAddr) (v : ProgAddr) (s : State) :
    pushAll (vs ++ [v]) s = (pushAll vs s).rasPush v := by
  induction vs generalizing s with
  | nil => rfl
  | cons w vs ih => exact ih (s.rasPush w)

theorem rsp_pushAll (vs : List ProgAddr) (s : State) : (pushAll vs s).rsp = s.rsp + BitVec.ofNat 4 vs.length := by
  induction vs generalizing s with
  | nil => simp [pushAll]
  | cons v vs ih =>
    rw [pushAll, ih, rasPush_rsp, List.length_cons]
    bv_omega

/-- The top sixteen entries are the last pushes, the last one on top. -/
theorem rasEntry_pushAll (vs : List ProgAddr) (s : State) {j : Nat} (hlen : j < vs.length) (hj : j < 16) :
    vs.reverse[j]? = some (rasEntry (pushAll vs s) j) := by
  induction vs using List.reverseRecOn generalizing j with
  | nil => cases hlen
  | append_singleton vs v ih =>
    rw [pushAll_append, List.reverse_append]
    cases j with
    | zero => simp [rasEntry_zero]
    | succ j =>
      rw [rasEntry_rasPush_succ _ v (by omega)]
      rw [List.length_append, List.length_singleton] at hlen
      exact ih (by omega) (by omega)

/-- Settles O51: the pops read the entries from the top down, and these are the last pushes. -/
theorem popsAnswerTheLastPushes : Obligations.PopsAnswerTheLastPushes := by
  intro s vs k hlen hk
  constructor
  · rw [popAll_addresses]
    refine List.ext_getElem? fun j => ?_
    by_cases hj : j < k
    · rw [List.getElem?_take_of_lt hj, rasEntry_pushAll vs s (by omega) (by omega)]
      simp [hj]
    · rw [List.getElem?_eq_none (by simp; omega), List.getElem?_eq_none (by simp; omega)]
  · rw [rsp_popAll, rsp_pushAll]

end Sys2Proof.Claims
end

section
/-! Immediate data and ports (41_memory_io.md sections 1 and 2): the statements O52 to O54. -/

namespace Sys2Proof.Machine

/-! R130. MVI by the latch, with no repetition pending. -/

theorem exec_mvi_first {a : Reg} {s : State} (imm : BitVec 8) (hrep : s.rep = 0) (hlat : s.mviLat = none) :
    exec (.mvi a imm) s = .next { retire (seqPc s) (s.setReg a (signExtend8 imm)) with mviLat := some a } := by
  show execMvi a imm s = _
  rw [execMvi, unlessRep_of _ hrep, hlat]

theorem exec_mvi_second {a : Reg} {s : State} (imm : BitVec 8) (hrep : s.rep = 0) (hlat : s.mviLat = some a) :
    exec (.mvi a imm) s = writeReg a (withHighByte (s.getReg a) imm) s := by
  show execMvi a imm s = _
  simp [execMvi, unlessRep_of _ hrep, hlat]

theorem exec_mvi_other {a r : Reg} {s : State} (imm : BitVec 8) (hrep : s.rep = 0) (hlat : s.mviLat = some r)
    (hne : r ≠ a) : exec (.mvi a imm) s = .refused .mviPairMismatch := by
  show execMvi a imm s = _
  simp [execMvi, unlessRep_of _ hrep, hlat, hne]

/-! R133, R134. -/

theorem exec_out (a : Reg) (p : Port) (s : State) :
    exec (.out a p) s = .next (retire (seqPc s) (s.portWrite p (s.getReg a))) := rfl

theorem exec_inp (a : Reg) (p : Port) (s : State) :
    exec (.inp a p) s = .next (retire (seqPc s) ((s.portRead p).setReg a (s.portInput p))) := rfl

/-- R131. The upper byte of a word over the sign-extended lower one is the word. -/
theorem withHighByte_signExtend8 (v : Word) :
    BitVec.ofNat 16 ((BitVec.ofNat 8 (v.toNat / 256)).toNat * 256 +
      (BitVec.ofInt 16 (BitVec.ofNat 8 v.toNat).toInt).toNat % 256) = v := by
  have hlt := v.isLt
  have hlow : (BitVec.ofInt 16 (BitVec.ofNat 8 v.toNat).toInt).toNat % 256 = v.toNat % 256 := by
    rw [byte_toInt, BitVec.toNat_ofInt, BitVec.toNat_ofNat]
    omega
  apply BitVec.eq_of_toNat_eq
  rw [hlow, BitVec.toNat_ofNat, BitVec.toNat_ofNat]
  omega

end Sys2Proof.Machine

namespace Sys2Proof.Claims

open Sys2Proof.Machine

theorem next_of_rep_zero {s : State} (h : s.rep = 0) : next s = s.pc + 1 := seqPc_of_rep_zero h

theorem KeepsRest.trans {s t u : State} (hst : KeepsRest s t) (htu : KeepsRest t u) : KeepsRest s u := by
  obtain ⟨⟨hbyte, hstored⟩, ⟨hras, hrsp⟩, hacc, ⟨hdivq, hdivr, hdivd⟩, ⟨hio, hportIn⟩, hdrawn, hcfg⟩ := hst
  obtain ⟨⟨hbyte', hstored'⟩, ⟨hras', hrsp'⟩, hacc', ⟨hdivq', hdivr', hdivd'⟩, ⟨hio', hportIn'⟩, hdrawn', hcfg'⟩ := htu
  exact ⟨⟨fun n => (hbyte' n).trans (hbyte n), hstored'.trans hstored⟩, ⟨hras'.trans hras, hrsp'.trans hrsp⟩,
    hacc'.trans hacc, ⟨hdivq'.trans hdivq, hdivr'.trans hdivr, hdivd'.trans hdivd⟩,
    ⟨hio'.trans hio, hportIn'.trans hportIn⟩, hdrawn'.trans hdrawn, hcfg'.trans hcfg⟩

/-- Settles O52: the latch decides which MVI it is. -/
theorem mviLoadsItsByte : Obligations.MviLoadsItsByte := by
  intro s a imm hrep
  refine ⟨immWord_toNat imm a (by decide), fun hlat => ?first, fun hlat => ?second, fun r hlat hne => ?other⟩
  case first =>
    refine ⟨_, exec_mvi_first imm hrep hlat, getReg_setReg_self s a _, rfl, seqPc_of_rep_zero hrep, ?_, rfl, rfl,
      fun r hr => getReg_setReg_ne s _ hr, keepsRest_refl s⟩
    simp [hrep]
  case second =>
    exact completes_writeReg_of_eq (exec_mvi_second imm hrep hlat) (eq_ofNat_of_toNat (withHighByte_toNat _ imm))
  case other => exact exec_mvi_other imm hrep hlat hne

/-- Settles O53: a first MVI, then a second one to the same register (O52). -/
theorem mviPairLoadsTheConstant : Obligations.MviPairLoadsTheConstant := by
  intro s a v hrep hlat
  obtain ⟨-, hfirst, -⟩ := mviLoadsItsByte s a (BitVec.ofNat 8 v.toNat) hrep
  obtain ⟨t, ht, htval, htlat, htpc, htrep, -, htflags, htregs, htrest⟩ := hfirst hlat
  obtain ⟨-, -, hsecond, -⟩ := mviLoadsItsByte t a (BitVec.ofNat 8 (v.toNat / 256)) htrep
  obtain ⟨u, hu, huval, huflags, huregs, ⟨hupc, hurep, hulat, -⟩, hurest⟩ := hsecond htlat
  rw [htval, withHighByte_signExtend8] at huval
  refine ⟨t, u, ht, hu, huval, hulat, ?pc, by rw [hurep, htrep], huflags.trans htflags,
    fun r hr => (huregs r hr).trans (htregs r hr), htrest.trans hurest⟩
  case pc =>
    rw [hupc, next_of_rep_zero htrep, htpc, BitVec.add_assoc]
    rfl

/-- Settles O54: OUT and IN are one access of the port each, and IN writes the value it reads. -/
theorem portAccessesAreEvents : Obligations.PortAccessesAreEvents := by
  intro s a p
  refine ⟨⟨portWord_toNat p a (by decide), ?out⟩, ⟨portWord_toNat p a (by decide), ?inp⟩⟩
  case out =>
    exact ⟨_, exec_out a p s, rfl, rfl, rfl, fun _ => rfl, advances_retire s (s.portWrite p (s.getReg a)) rfl rfl,
      ⟨fun _ => rfl, rfl⟩, ⟨rfl, rfl⟩, rfl, ⟨rfl, rfl, rfl⟩, rfl, rfl⟩
  case inp =>
    have hval : (retire (seqPc s) ((s.portRead p).setReg a (s.portInput p))).getReg a = s.portInput p :=
      getReg_setReg_self _ a _
    refine ⟨_, exec_inp a p s, ?event, fun v vs hsupply => ?supplied, fun hempty => ?free, rfl,
      fun r hr => getReg_setReg_ne (s.portRead p) _ hr,
      advances_retire s ((s.portRead p).setReg a (s.portInput p)) rfl rfl, ⟨fun _ => rfl, rfl⟩, ⟨rfl, rfl⟩, rfl,
      ⟨rfl, rfl, rfl⟩, rfl⟩
    case event => exact congrArg (fun v => s.io ++ [.read p v]) hval.symm
    case supplied =>
      rw [hval]
      simp [State.portInput, hsupply]
    case free => simp [hempty]

end Sys2Proof.Claims
end

section
/-! Memory accesses (41_memory_io.md section 3, 47_stack_and_pseudo.md section 4): the statements O55 to O58 and O60. -/

namespace Sys2Proof.Machine

/-! R51, R52. Where the memory operations of the state stop. -/

theorem loadWord_outside {s : State} {a : Word} (h : s.cfg.memWords ≤ a.toNat) :
    s.loadWord a = .fault (.readOutside a) :=
  if_pos h

theorem loadWord_unwritten {s : State} {a : Word} (hin : a.toNat < s.cfg.memWords)
    (hnone : Memory.readWord s.mem a = none) : s.loadWord a = .fault (.readUnwritten a) := by
  simp [State.loadWord, Nat.not_le.mpr hin, hnone]

theorem storeWord_outside {s : State} {a : Word} (v : Word) (h : s.cfg.memWords ≤ a.toNat) :
    s.storeWord a v = .fault (.writeOutside a) :=
  if_pos h

theorem andThen_of_fault {α : Type} {o : Host.Outcome α Fault Refusal} {r : Fault} (k : α → Result)
    (h : o = .fault r) : andThen o k = .fault r := by
  rw [h, andThen]

/-- R137. When an exchange answers. -/
theorem exchange_of {a : Reg} {addr v : Word} {s : State} (hin : addr.toNat < s.cfg.memWords)
    (hv : Memory.readWord s.mem addr = some v) :
    exchange a addr s = .next (retire (seqPc s)
      (State.setReg
        { s with mem := Memory.writeWord s.mem addr (s.getReg a), stored := addAddr s.stored addr.toNat } a v)) := by
  rw [exchange, loadWord_of hin hv, andThen_next, storeWord_of _ hin, andThen_next]
  rfl

end Sys2Proof.Machine

namespace Sys2Proof.Claims

open Sys2Proof.Machine

/-- Settles O55. -/
theorem wrStoresOneWord : Obligations.WrStoresOneWord := by
  intro s a b hin
  have hexec : exec (.wr a b) s = andThen (s.storeWord (s.getReg b) (s.getReg a)) finish := rfl
  rw [storeWord_of _ hin, andThen_next] at hexec
  exact ⟨aluWord_toNat b a (by decide), _, hexec, readWord_writeWord_self _ _ _,
    fun _ hlow hhigh => readByte_writeWord_ne _ _ hlow hhigh, fun _ => mem_addAddr, rfl, fun _ => rfl,
    advances_retire s _ rfl rfl, ⟨rfl, rfl⟩, rfl, ⟨rfl, rfl, rfl⟩, ⟨rfl, rfl⟩, rfl, rfl⟩

/-- Settles O56. -/
theorem rdLoadsOneWord : Obligations.RdLoadsOneWord := by
  intro s a b v hin hv
  have hexec : exec (.rd a b) s = andThen (s.loadWord (s.getReg b)) fun v => writeReg a v s := rfl
  rw [loadWord_of hin hv, andThen_next] at hexec
  exact ⟨aluWord_toNat b a (by decide), completes_writeReg hexec⟩

/-- Settles O57: XCHG and XTOS are `exchange`, each with its own register for the address. -/
theorem xchgExchangesOneWord : Obligations.XchgExchangesOneWord := by
  intro s a b v hin hv
  refine ⟨aluWord_toNat b a (by decide), wordOf_toNat (by omega), fun i hi hsp => ?_⟩
  have hexec : exec i s = exchange a (s.getReg b) s := by
    obtain rfl | rfl : i = .xchg a b ∨ i = .xtos a := by simpa using hi
    · rfl
    · rw [hsp rfl]
      rfl
  rw [exchange_of hin hv] at hexec
  exact ⟨_, hexec, getReg_setReg_self _ a v, readWord_writeWord_self _ _ _,
    fun _ hlow hhigh => readByte_writeWord_ne _ _ hlow hhigh, fun _ => mem_addAddr, rfl,
    fun _ hr => getReg_setReg_ne _ v hr, advances_retire s _ rfl rfl, ⟨rfl, rfl⟩, rfl, ⟨rfl, rfl, rfl⟩, ⟨rfl, rfl⟩,
    rfl, rfl⟩

/-- Settles O58: each of the three begins with its access. -/
theorem memoryAccessesStopOutside : Obligations.MemoryAccessesStopOutside := by
  intro s a b
  refine ⟨fun hout => ⟨?_, ?_, ?_⟩, fun hin hnone => ⟨?_, ?_⟩⟩
  · exact andThen_of_fault _ (storeWord_outside _ hout)
  · exact andThen_of_fault _ (loadWord_outside hout)
  · exact andThen_of_fault _ (loadWord_outside hout)
  · exact andThen_of_fault _ (loadWord_unwritten hin hnone)
  · exact andThen_of_fault _ (loadWord_unwritten hin hnone)

theorem readWord_of_keepsMemory {s t : State} (h : KeepsMemory s t) (a : Word) :
    Memory.readWord t.mem a = Memory.readWord s.mem a := by
  obtain ⟨hbyte, -⟩ := h
  rw [Memory.readWord, hbyte, hbyte, Memory.readWord]

/-- Settles O60: DEC and INC (O16) around WR (O55) and RD (O56). -/
theorem pushThenPopCopiesTheRegister : Obligations.PushThenPopCopiesTheRegister := by
  intro s m n hn hm hin
  obtain ⟨-, -, -, -, -, hdec⟩ := constantAdditionsWriteSumAndFlags s sp
  obtain ⟨t, ht, htsp, -, htregs, -, -, -, -, -, -, -, htcfg⟩ := hdec
  rw [← htsp, ← htcfg] at hin
  obtain ⟨-, u, hu, huword, -, -, -, huregs, -, -, -, -, -, -, hucfg⟩ := wrStoresOneWord t n sp hin
  rw [← huregs sp, ← hucfg] at hin
  rw [← huregs sp] at huword
  obtain ⟨-, v, hv, hvval, -, hvregs, -, hvmem, -⟩ := rdLoadsOneWord u m sp _ hin huword
  obtain ⟨-, -, -, ⟨-, hinc⟩, -⟩ := constantAdditionsWriteSumAndFlags v sp
  obtain ⟨w, hw, hwsp, -, hwregs, -, hwmem, -⟩ := hinc
  have hsp : w.getReg sp = s.getReg sp := by
    rw [hwsp, hvregs sp hm.symm, huregs, htsp]
    exact BitVec.sub_add_cancel _ _
  refine ⟨t, u, v, w, ht, hu, hv, hw, ?copied, hsp, ?stored, fun r hr => ?others⟩
  case copied => rw [hwregs m hm, hvval, htregs n hn]
  case stored =>
    rw [readWord_of_keepsMemory hwmem, readWord_of_keepsMemory hvmem, ← htsp, ← huregs, huword, htregs n hn]
  case others =>
    by_cases hrsp : r = sp
    · rw [hrsp, hsp]
    · rw [hwregs r hrsp, hvregs r hr, huregs, htregs r hrsp]

end Sys2Proof.Claims
end
